-- ==== Sys2Proof/Word.lean ====
section
/-!
DEFINITION. The word types of the block (00_scope.md rule R8: bit 0 is the least significant bit of every value).
-/

namespace Sys2Proof

/-- A `u8`: one byte of a bus transfer. -/
abbrev Byte := BitVec 8

/-- A `u16`: a bus-A word, a result field, the control image. -/
abbrev Half := BitVec 16

/-- A 32-bit command word (30_encoding.md rule R80). -/
abbrev Word := BitVec 32

end Sys2Proof
end

