-- ==== Sys2Proof/Syntax.lean ====
section
/-!
DEFINITION. The command set: one constructor per row of the opcode map (30_encoding.md rule R84), with the operand
fields of its format at their exact widths (rules R81, R82). Every value of a field is an operand the encoding
admits, so what a command does with an out-of-range value is its meaning's matter, not the syntax's.
-/

namespace Sys2Proof

/-- The 15 commands. -/
inductive Instr where
  /-- OPC 0x01 (R116). -/
  | freqEncode (hz : BitVec 24)
  /-- OPC 0x02 (R117). -/
  | freqLoad (hz : BitVec 24)
  /-- OPC 0x03 (R118). -/
  | phaseEncode (deg : BitVec 16)
  /-- OPC 0x04 (R119). -/
  | phaseLoad (deg : BitVec 16)
  /-- OPC 0x10 (R131). -/
  | ctrlGet
  /-- OPC 0x11 (R132). -/
  | ctrlSync
  /-- OPC 0x12 (R133). -/
  | setWaveform (wf : BitVec 3)
  /-- OPC 0x13 (R134). -/
  | setGate (on : BitVec 1)
  /-- OPC 0x14 (R135). -/
  | ctrlReset
  /-- OPC 0x20 (R162). -/
  | gainSolve (wf : BitVec 3) (mv : BitVec 16)
  /-- OPC 0x21 (R163). -/
  | ampApply (wf : BitVec 3) (mv : BitVec 16)
  /-- OPC 0x30 (R184). -/
  | potPack (addr : BitVec 4) (cmd : BitVec 2) (data : BitVec 16)
  /-- OPC 0x31 (R185). -/
  | potWrite (addr : BitVec 4) (cmd : BitVec 2) (data : BitVec 16)
  /-- OPC 0x32 (R186). -/
  | potRead (addr : BitVec 4)
  /-- OPC 0x40 (R200). -/
  | errGet
  deriving DecidableEq, Repr

end Sys2Proof
end

