-- ==== Sys2Proof/Decode.lean ====
section
/-!
DEFINITION. The decoder of the command word and the encoder, both written from the opcode map and the formats of
30_encoding.md (rules R80 to R86).
-/

namespace Sys2Proof

/-- Why a command word is illegal. Both end the command with `OtherError` (rules R85, R86, R212). -/
inductive DecodeError where
  /-- `OPC` is not in the opcode map (R86). -/
  | unassignedOpcode
  /-- `OPC` is in the map, and a bit its format marks `0` is 1 (R85). -/
  | reservedBits
  deriving DecidableEq, Repr

/-- A row of the opcode map: the opcode number, the format's reserved bits, and the operand fields' slices. -/
structure OpcodeRow where
  opc : BitVec 8
  reserved : Word
  build : Word → Instr

/-- `HZ = cmd[23:0]` (R81, format `F_HZ`). -/
def hzField (w : Word) : BitVec 24 := w.extractLsb' 0 24

/-- `DEG`, `MV` and `DATA` are `cmd[15:0]` (R81, formats `F_DEG`, `F_AMP`, `F_POT`). -/
def lowHalfField (w : Word) : BitVec 16 := w.extractLsb' 0 16

/-- `WF = cmd[2:0]` (R81, format `F_WF`). -/
def wfField (w : Word) : BitVec 3 := w.extractLsb' 0 3

/-- `ON = cmd[0]` (R81, format `F_GATE`). -/
def onField (w : Word) : BitVec 1 := w.extractLsb' 0 1

/-- `WF = cmd[18:16]` (R81, format `F_AMP`). -/
def ampWfField (w : Word) : BitVec 3 := w.extractLsb' 16 3

/-- `ADDR = cmd[23:20]` (R81, formats `F_POT`, `F_POTA`). -/
def addrField (w : Word) : BitVec 4 := w.extractLsb' 20 4

/-- `CMD = cmd[19:18]` (R81, format `F_POT`). -/
def cmdField (w : Word) : BitVec 2 := w.extractLsb' 18 2

/-- The opcode map (rule R84), each row with the reserved bits its format marks `0` (rule R81). -/
def opcodeRows : List OpcodeRow :=
  [⟨0x01, 0x00000000, fun w => .freqEncode (hzField w)⟩,
   ⟨0x02, 0x00000000, fun w => .freqLoad (hzField w)⟩,
   ⟨0x03, 0x00FF0000, fun w => .phaseEncode (lowHalfField w)⟩,
   ⟨0x04, 0x00FF0000, fun w => .phaseLoad (lowHalfField w)⟩,
   ⟨0x10, 0x00FFFFFF, fun _ => .ctrlGet⟩,
   ⟨0x11, 0x00FFFFFF, fun _ => .ctrlSync⟩,
   ⟨0x12, 0x00FFFFF8, fun w => .setWaveform (wfField w)⟩,
   ⟨0x13, 0x00FFFFFE, fun w => .setGate (onField w)⟩,
   ⟨0x14, 0x00FFFFFF, fun _ => .ctrlReset⟩]
  ++ [⟨0x20, 0x00F80000, fun w => .gainSolve (ampWfField w) (lowHalfField w)⟩,
   ⟨0x21, 0x00F80000, fun w => .ampApply (ampWfField w) (lowHalfField w)⟩,
   ⟨0x30, 0x00030000, fun w => .potPack (addrField w) (cmdField w) (lowHalfField w)⟩,
   ⟨0x31, 0x00030000, fun w => .potWrite (addrField w) (cmdField w) (lowHalfField w)⟩,
   ⟨0x32, 0x000FFFFF, fun w => .potRead (addrField w)⟩,
   ⟨0x40, 0x00FFFFFF, fun _ => .errGet⟩]

/-- `OPC = cmd[31:24]` (R80). -/
def opcField (w : Word) : BitVec 8 := w.extractLsb' 24 8

/-- Decode a command word: the operation by `OPC`, then the reserved bits, then the operands (R80). -/
def decode (w : Word) : Except DecodeError Instr :=
  match opcodeRows.find? fun r => r.opc == opcField w with
  | none => .error .unassignedOpcode
  | some r => if w &&& r.reserved = 0 then .ok (r.build w) else .error .reservedBits

/-- The command word of a command: `OPC` in bits 31:24, then the fields of its format (R81, R84). -/
def encode : Instr → Word
  | .freqEncode hz => 0x01000000 ||| hz.setWidth 32
  | .freqLoad hz => 0x02000000 ||| hz.setWidth 32
  | .phaseEncode deg => 0x03000000 ||| deg.setWidth 32
  | .phaseLoad deg => 0x04000000 ||| deg.setWidth 32
  | .ctrlGet => 0x10000000
  | .ctrlSync => 0x11000000
  | .setWaveform wf => 0x12000000 ||| wf.setWidth 32
  | .setGate on => 0x13000000 ||| on.setWidth 32
  | .ctrlReset => 0x14000000
  | .gainSolve wf mv => 0x20000000 ||| wf.setWidth 32 <<< 16 ||| mv.setWidth 32
  | .ampApply wf mv => 0x21000000 ||| wf.setWidth 32 <<< 16 ||| mv.setWidth 32
  | .potPack addr cmd data => 0x30000000 ||| addr.setWidth 32 <<< 20 ||| cmd.setWidth 32 <<< 18 ||| data.setWidth 32
  | .potWrite addr cmd data => 0x31000000 ||| addr.setWidth 32 <<< 20 ||| cmd.setWidth 32 <<< 18 ||| data.setWidth 32
  | .potRead addr => 0x32000000 ||| addr.setWidth 32 <<< 20
  | .errGet => 0x40000000

/-- What the decoder reads from the word `w` of `nbits` bits (one 32-bit word, bit 0 its least significant bit; any
bit above `nbits` is 0). -/
def decodeTableWord (nbits w : Nat) : Option Instr :=
  match decode (BitVec.ofNat 32 (w % 2 ^ nbits)) with
  | .ok i => some i
  | .error _ => none

end Sys2Proof
end

