-- ==== Sys2Proof/Config.lean ====
section
/-!
DEFINITION. The implementation parameters (00_scope.md rules R6, R7), the constants the source fixes, and the free
values of the buses (20_memory.md rule R58).
-/

namespace Sys2Proof

/-- Which control-register bit mutes the output: `GATE_BIT` is 8 (RESET) or 6 (SLEEP12), nothing else
(rules R6, R7, R26). -/
inductive GateBit where
  | reset8
  | sleep12
  deriving DecidableEq, Repr

/-- The bit number `GATE_BIT` stands for. -/
def GateBit.pos : GateBit → Nat
  | .reset8 => 8
  | .sleep12 => 6

/-- One instance's parameters. The proof fields are the constraints of rule R7, so an instance outside them, which
"has no meaning under this spec", cannot be built (93_implementation_defined.md U22; log entry 1). -/
structure Params where
  /-- `CLOCK_HZ`, the DDS master clock. -/
  clockHz : Nat
  /-- `R_POT_OHMS`, the full-scale potentiometer resistance. -/
  potOhms : Nat
  /-- `POT_BUS_ADDR`, the potentiometer's 7-bit bus-B address. -/
  potBusAddr : BitVec 7
  /-- `GATE_BIT`. -/
  gateBit : GateBit
  /-- `ERRCNT_WIDTH`. -/
  errcntWidth : Nat
  clockHz_pos : 1 ≤ clockHz := by decide
  potOhms_pos : 1 ≤ potOhms := by decide
  errcntWidth_pos : 1 ≤ errcntWidth := by decide
  errcntWidth_le : errcntWidth ≤ 32 := by decide
  deriving DecidableEq, Repr

/-- The outcome of a bus primitive (rule R12). -/
inductive BusOutcome where
  | ok
  | fail
  | hang
  deriving DecidableEq, Repr, Inhabited

/-- What the environment answers one bus primitive with: its outcome, and the two bytes a `BusB_Read` with outcome
`ok` returns (rule R58). Any other primitive ignores the bytes. -/
structure Draw where
  outcome : BusOutcome
  b0 : Byte
  b1 : Byte
  deriving DecidableEq, Repr, Inhabited

namespace Config

/-- OPEN (R6): `CLOCK_HZ` is one more than this unknown natural number, hence positive. -/
opaque clockHzPred : Nat

/-- OPEN (R6): `R_POT_OHMS` is one more than this unknown natural number, hence positive. -/
opaque potOhmsPred : Nat

/-- OPEN (R6): `POT_BUS_ADDR`. -/
opaque potBusAddr : BitVec 7

/-- FREE VALUE (R58): what the buses answer the `k`-th bus primitive with, where the state lists no answer
(log entry 3). -/
opaque freeDraw : Nat → Draw

/-- The parameters of the instance that `State.reset` starts: the OPEN ones unknown, `GATE_BIT` and `ERRCNT_WIDTH`
at the defaults of rule R6 (log entry 1). -/
def params : Params where
  clockHz := clockHzPred + 1
  potOhms := potOhmsPred + 1
  potBusAddr := potBusAddr
  gateBit := .reset8
  errcntWidth := 16
  clockHz_pos := Nat.le_add_left 1 clockHzPred
  potOhms_pos := Nat.le_add_left 1 potOhmsPred

/-- `FREQ_MAX` (R6). -/
abbrev freqMax : Nat := 8000000

/-- `PHASE_MAX` (R6). -/
abbrev phaseMax : Nat := 360

/-- `AMP_MAX` (R6). -/
abbrev ampMax : Nat := 4000

/-- `KNEE_MV` (R6). -/
abbrev kneeMv : Nat := 350

/-- `NOISE_FLOOR_OHMS` (R6). -/
abbrev noiseFloorOhms : Nat := 80

/-- `R1_FLOOR_TAPS` (R6). -/
abbrev r1FloorTaps : Nat := 16

/-- `TAP_MAX` (R6). -/
abbrev tapMax : Nat := 256

end Config

end Sys2Proof
end

