-- ==== Sys2Proof/Machine/Operands.lean ====
section
/-!
DEFINITION. The operand forms: arithmetic primitives (00_scope.md rule R10), range checks, waveform codes, and the
potentiometer's register addresses, command codes and triple check.
-/

namespace Sys2Proof.Machine

/-- `round(n, d) = (2*n + d) div (2*d)`: round half up (R10). -/
def roundHalfUp (n d : Nat) : Nat := (2 * n + d) / (2 * d)

/-- `clamp(v, lo, hi)` (R10). -/
def clamp (v lo hi : Nat) : Nat := if v < lo then lo else if hi < v then hi else v

/-- The waveform kinds (R24, R87). -/
inductive Waveform where
  | sine
  | triangle
  | square
  | squareDiv2
  deriving DecidableEq, Repr

/-- `kind(WF)`: codes 4 to 7 are unknown waveforms (R87). -/
def waveformOf (wf : BitVec 3) : Option Waveform :=
  match wf.toNat with
  | 0 => some .sine
  | 1 => some .triangle
  | 2 => some .square
  | 3 => some .squareDiv2
  | _ => none

/-- A frequency operand is admitted when `HZ <= FREQ_MAX` (R112). -/
def freqAdmitted (hz : BitVec 24) : Bool := decide (hz.toNat ≤ Config.freqMax)

/-- A phase operand is admitted when `DEG <= PHASE_MAX` (R115). -/
def phaseAdmitted (deg : BitVec 16) : Bool := decide (deg.toNat ≤ Config.phaseMax)

/-- An amplitude operand is admitted when `MV <= AMP_MAX` (R160). -/
def ampAdmitted (mv : BitVec 16) : Bool := decide (mv.toNat ≤ Config.ampMax)

/-- The potentiometer registers the block knows (20_memory.md R56). -/
inductive PotRegister where
  | wiper0
  | wiper1
  | nonVolatileWiper0
  | nonVolatileWiper1
  | tcon
  | statusRegister
  deriving DecidableEq, Repr

/-- The register at a 4-bit address; 0x6 to 0xF are not known to the block (R56). -/
def potRegisterOf (a : BitVec 4) : Option PotRegister :=
  match a.toNat with
  | 0 => some .wiper0
  | 1 => some .wiper1
  | 2 => some .nonVolatileWiper0
  | 3 => some .nonVolatileWiper1
  | 4 => some .tcon
  | 5 => some .statusRegister
  | _ => none

/-- The address of wiper 0, where AMP_APPLY writes `r0Taps` (R151). -/
def wiper0Addr : BitVec 4 := 0x0

/-- The address of wiper 1, where AMP_APPLY writes `r1Taps` (R151). -/
def wiper1Addr : BitVec 4 := 0x1

/-- The potentiometer commands (R57). -/
inductive PotCommand where
  | writeData
  | increment
  | decrement
  | readData
  deriving DecidableEq, Repr

/-- The 2-bit code `C1C0` of a command (R57). -/
def potCommandCode : PotCommand → BitVec 2
  | .writeData => 0b00
  | .increment => 0b01
  | .decrement => 0b10
  | .readData => 0b11

/-- The command of a 2-bit code: all four values are known commands (R57). -/
def potCommandOf (c : BitVec 2) : PotCommand :=
  match c.toNat with
  | 0 => .writeData
  | 1 => .increment
  | 2 => .decrement
  | _ => .readData

/-- A known register address (R56, R180). -/
def potAddrKnown (a : BitVec 4) : Bool := (potRegisterOf a).isSome

/-- Validity of a triple `(a, c, d)`; every command code `c` is known, so it has no say (43_pot_protocol.md R180). -/
def potValid (a : BitVec 4) (_c : BitVec 2) (d : BitVec 16) : Bool :=
  potAddrKnown a && decide (d.toNat ≤ Config.tapMax)

end Sys2Proof.Machine
end

