-- ==== Sys2Proof/Machine/CtrlImage.lean ====
section
/-!
DEFINITION. The DDS control-register image as bits (10_state.md rules R23 to R28) and the image functions of
41_control_register.md rule R130.
-/

namespace Sys2Proof.Machine

/-- The gate bit of an image, as a mask: `1 << GATE_BIT` (R26). -/
def gateMask (g : GateBit) : Half := 1#16 <<< g.pos

/-- The three writable waveform fields OPBITEN (5), DIV2 (3) and MODE (1), as a mask (R24). -/
def waveMask : Half := 0x002A

/-- `WAVE_BITS(kind)` (R24, R130). -/
def waveBits : Waveform → Half
  | .sine => 0x0000
  | .triangle => 0x0002
  | .square => 0x0028
  | .squareDiv2 => 0x0020

/-- `with_wave(C, k)` (R130). -/
def withWave (c : Half) (k : Waveform) : Half := (c &&& ~~~waveMask) ||| waveBits k

/-- `with_gate(C, on)`: gate on clears the gate bit, gate off sets it (R26, R130). -/
def withGate (g : GateBit) (c : Half) (on : BitVec 1) : Half :=
  if on = 1 then c &&& ~~~(gateMask g) else c ||| gateMask g

/-- `gate_on(C)` (R26). -/
def gateOn (g : GateBit) (c : Half) : Bool := !c.getLsbD g.pos

/-- `wf_of(C)`: the kind whose row of rule R24 matches the image's waveform fields. -/
def waveformOfImage (c : Half) : Option Waveform :=
  [Waveform.sine, .triangle, .square, .squareDiv2].find? fun k => c &&& waveMask == waveBits k

/-- `CTRL_RESET_VALUE`: B28 = 1, gate off, Sine, the rest at the hardwired values (R27). -/
def ctrlResetValue (g : GateBit) : Half := 0x2000 ||| gateMask g

/-- The eight legal images `0x2000 | G | W` (R28). -/
def legalImages (g : GateBit) : List Half :=
  [0x0000, gateMask g].flatMap fun gate =>
    [Waveform.sine, .triangle, .square, .squareDiv2].map fun k => 0x2000 ||| gate ||| waveBits k

/-- The fields of the image (R23). -/
structure CtrlFields where
  tag : BitVec 2
  b28 : Bool
  hlb : Bool
  fselect : Bool
  pselect : Bool
  reserved9 : Bool
  reset : Bool
  sleep1 : Bool
  sleep12 : Bool
  opbiten : Bool
  reserved4 : Bool
  div2 : Bool
  reserved2 : Bool
  mode : Bool
  reserved0 : Bool
  deriving DecidableEq, Repr

/-- The image read as its fields (the table of R23). -/
def ctrlFieldsOf (c : Half) : CtrlFields where
  tag := c.extractLsb' 14 2
  b28 := c.getLsbD 13
  hlb := c.getLsbD 12
  fselect := c.getLsbD 11
  pselect := c.getLsbD 10
  reserved9 := c.getLsbD 9
  reset := c.getLsbD 8
  sleep1 := c.getLsbD 7
  sleep12 := c.getLsbD 6
  opbiten := c.getLsbD 5
  reserved4 := c.getLsbD 4
  div2 := c.getLsbD 3
  reserved2 := c.getLsbD 2
  mode := c.getLsbD 1
  reserved0 := c.getLsbD 0

end Sys2Proof.Machine
end

