-- ==== Sys2Proof/Machine/State.lean ====
section
/-!
DEFINITION. The state of the block (10_state.md rule R22), with the model's own fields for what stands outside it:
the instance's parameters, the host's next moves and the buses' next answers.
-/

namespace Sys2Proof.Machine

/-- `RUN` (R30). -/
inductive Run where
  | idle
  | hung
  deriving DecidableEq, Repr

/-- The recorded outcome of a completed bus-A word or bus-B write (R31). -/
inductive Completion where
  | ok
  | fail
  deriving DecidableEq, Repr

/-- The recorded outcome of a completed bus-B read (R31). That the record holds the bytes of R58 as well is the model's
choice (log entry 7). -/
inductive ReadCompletion where
  | ok (b0 b1 : Byte)
  | fail
  deriving DecidableEq, Repr

/-- A bus event of `TRACE` (R31). An event that drew `Hang` has no outcome (`none`). -/
inductive Event where
  /-- `A(w)`: a bus-A word. -/
  | aWord (w : Half) (outcome : Option Completion)
  /-- `BW(bytes)`: a bus-B write. -/
  | bWrite (bytes : List Byte) (outcome : Option Completion)
  /-- `BR`: a bus-B 2-byte read. -/
  | bRead (outcome : Option ReadCompletion)
  deriving DecidableEq, Repr

/-- A move of the host. -/
inductive HostMove where
  /-- It presents a command word, and waits for the command to end (R21, R247). -/
  | present (w : Word)
  /-- It asserts reset between commands, or while the block is hung (R240). -/
  | assertReset
  /-- It presents a command word and asserts reset while the command runs, once `k` of its bus primitives have started
  (or all of them, if there are fewer) (R240; log entry 6). -/
  | presentThenReset (w : Word) (k : Nat)
  deriving DecidableEq, Repr

/-- Why the machine stops. -/
inductive Fault where
  /-- Raised by `accept` when `RUN = Hung`: "the block has no further step until reset" (R30, R217, U20). Safe: a
  hung block completes nothing, and the stop proves nothing of it (log entry 4). -/
  | hung
  deriving DecidableEq, Repr

/-- Why the model gives an instruction no meaning. -/
inductive Refusal where
  /-- Raised by an arm of `exec` that has no meaning yet. Safe. No arm of this model raises it. -/
  | notModelled (mnemonic : String)
  deriving DecidableEq, Repr

/-- The state. -/
@[ext]
structure State where
  /-- Not block state: the instance's parameters, which no step changes (R6; log entry 1). -/
  params : Params
  /-- `CTRL` (R22, R23). -/
  ctrl : Half
  /-- `ERRCNT`, an unsigned counter `ERRCNT_WIDTH` bits wide (R22, R29; log entry 9). -/
  errcnt : Nat
  /-- `RSP_STATUS` (R22, R211). -/
  rspStatus : Byte
  /-- `RSP_R0` (R22, R92). -/
  rspR0 : Half
  /-- `RSP_R1` (R22, R92). -/
  rspR1 : Half
  /-- `RSP_LEN` (R22, R92). -/
  rspLen : BitVec 2
  /-- `RUN` (R22, R30). -/
  run : Run
  /-- `TRACE`, oldest event first (R31). -/
  trace : List Event
  /-- Not block state: the host's next moves, first one first (log entry 2). -/
  host : List HostMove
  /-- Not block state: the buses' next answers, first one first (log entry 3). -/
  draws : List Draw
  /-- Not block state: how many answers have been drawn (log entry 3). -/
  drawn : Nat
  deriving DecidableEq, Repr

/-- The state after reset of an instance with parameters `p` (R240), with no host move and no bus answer listed. -/
def State.resetWith (p : Params) : State where
  params := p
  ctrl := ctrlResetValue p.gateBit
  errcnt := 0
  rspStatus := 0
  rspR0 := 0
  rspR1 := 0
  rspLen := 0
  run := .idle
  trace := []
  host := []
  draws := []
  drawn := 0

/-- The machine right after reset (R240). -/
def State.reset : State := State.resetWith Config.params

end Sys2Proof.Machine
end

