-- ==== Sys2Proof/Machine/Flags.lean ====
section
/-!
DEFINITION. The block has no condition flags (10_state.md rule R33). Its status computations stand here instead: the
status codes (60_exceptions.md rule R211) and the counting of errors (rules R29, R213).
-/

namespace Sys2Proof.Machine

/-- The five result codes (R211). `valueTooSmall` is never written. -/
inductive Status where
  | success
  | unknownError
  | valueTooSmall
  | valueTooLarge
  | otherError
  deriving DecidableEq, Repr

/-- The number of a result code (R211). -/
def statusCode : Status → Byte
  | .success => 0
  | .unknownError => 1
  | .valueTooSmall => 2
  | .valueTooLarge => 3
  | .otherError => 4

/-- How many errors a completed primitive counts: 1 when it drew `Fail` (R213). -/
def failures : Completion → Nat
  | .ok => 0
  | .fail => 1

/-- The outcome a completed primitive drew. -/
def outcomeOf : Completion → BusOutcome
  | .ok => .ok
  | .fail => .fail

/-- The status after the bus events of a command of which `n` drew `Fail` (R211, R212 step 5). -/
def transportStatus (n : Nat) : Status := if n = 0 then .success else .unknownError

/-- `ERRCNT <- mask_ERRCNT_WIDTH(ERRCNT + n)` (R29, R213). -/
def countErrors (n : Nat) (s : State) : State :=
  { s with errcnt := (s.errcnt + n) % 2 ^ s.params.errcntWidth }

/-- `if o == Fail: ERRCNT <- mask_ERRCNT_WIDTH(ERRCNT + 1)` (R119, R185). -/
def countFailure (o : Completion) (s : State) : State :=
  match o with
  | .ok => s
  | .fail => countErrors 1 s

end Sys2Proof.Machine
end

