-- ==== Sys2Proof/Machine/Ops.lean ====
section
/-!
DEFINITION. The shared operations: accepting a command, writing the response, the three bus primitives, reset, and
taking the host's next move. The block has no memory and no trap entry (20_memory.md rule R50, 60_exceptions.md rule
R220): a failed command ends through `reject` or through a response with its status.
-/

namespace Sys2Proof.Machine

/-- The outcome of a step of this machine. -/
abbrev StepOutcome := Host.Outcome State Fault Refusal

/-- A command is accepted only when `RUN = Idle`, and is then one atomic step (R215, R216). A hung block accepts
nothing (R217; log entry 4). -/
def accept (body : State → State) (s : State) : StepOutcome :=
  match s.run with
  | .idle => .next (body s)
  | .hung => .fault .hung

/-- Write the four response registers (R92, R211). -/
def respond (st : Status) (r0 r1 : Half) (len : BitVec 2) (s : State) : State :=
  { s with rspStatus := statusCode st, rspR0 := r0, rspR1 := r1, rspLen := len }

/-- End a command that fails before its first bus event: the status, and zero results (R13, R214). -/
def reject (st : Status) (s : State) : State := respond st 0 0 0 s

/-- An unknown waveform code: counted, then rejected with `UnknownError` (R133, R161, R213). -/
def rejectWaveform (s : State) : State := reject .unknownError (countErrors 1 s)

/-- `CTRL <- c`. -/
def setCtrl (c : Half) (s : State) : State := { s with ctrl := c }

/-- The answer to the `k`-th bus primitive from here: listed in the state, or a free value (R58). -/
def drawAt (s : State) (k : Nat) : Draw := s.draws.getD k (Config.freeDraw (s.drawn + k))

/-- Append a bus event to `TRACE` and use up one answer (R31). -/
def record (e : Event) (s : State) : State :=
  { s with trace := s.trace ++ [e], draws := s.draws.tail, drawn := s.drawn + 1 }

/-- `RUN <- Hung`: the command ends with no response (R30, R217). -/
def hang (s : State) : State := { s with run := .hung }

/-- `BusA_Send(w)`, then the rest of the command unless the word draws `Hang` (R12, R51). -/
def busASend (w : Half) (rest : Completion → State → State) (s : State) : State :=
  match (drawAt s 0).outcome with
  | .ok => rest .ok (record (.aWord w (some .ok)) s)
  | .fail => rest .fail (record (.aWord w (some .fail)) s)
  | .hang => hang (record (.aWord w none) s)

/-- `BusB_Write(bytes)`, then the rest of the command unless it draws `Hang` (R12, R55). -/
def busBWrite (bytes : List Byte) (rest : Completion → State → State) (s : State) : State :=
  match (drawAt s 0).outcome with
  | .ok => rest .ok (record (.bWrite bytes (some .ok)) s)
  | .fail => rest .fail (record (.bWrite bytes (some .fail)) s)
  | .hang => hang (record (.bWrite bytes none) s)

/-- `BusB_Read(2)`, then the rest of the command unless it draws `Hang` (R12, R55). -/
def busBRead (rest : ReadCompletion → State → State) (s : State) : State :=
  match (drawAt s 0).outcome with
  | .ok =>
    rest (.ok (drawAt s 0).b0 (drawAt s 0).b1) (record (.bRead (some (.ok (drawAt s 0).b0 (drawAt s 0).b1))) s)
  | .fail => rest .fail (record (.bRead (some .fail)) s)
  | .hang => hang (record (.bRead none) s)

/-- Reset: every register at its reset value, `TRACE` empty, no bus event, whatever the block was doing (R240). The
parameters, the host's moves and the buses' answers are not the block's and stay (log entry 6). -/
def resetBlock (s : State) : State :=
  { State.resetWith s.params with host := s.host, draws := s.draws, drawn := s.drawn }

/-- An illegal command word: `OtherError`, zero results, nothing else changed, whichever check failed (R85, R86,
R212). -/
def illegalCommand (_e : DecodeError) (s : State) : StepOutcome := accept (reject .otherError) s

/-- With no move of the host left, an idle block waits (R241; log entry 5). -/
def awaitCommand (s : State) : StepOutcome := accept id s

/-- A command abandoned by reset: its remaining bus events are not made and its writes are not committed. The block is
as after any reset, and the answers to the primitives that had started are used up (R240; log entry 6). `ended` is what
the command would have ended in. -/
def abandonCommand (k : Nat) (ended : StepOutcome) (s : State) : State :=
  let made := match ended with
    | .next t => t.drawn - s.drawn
    | .fault _ => 0
    | .refused _ => 0
  resetBlock { s with draws := s.draws.drop (min k made), drawn := s.drawn + min k made }

/-- The host's next move, and the state with that move taken. -/
def takeMove (s : State) : Option (HostMove × State) :=
  match s.host with
  | [] => none
  | m :: rest => some (m, { s with host := rest })

end Sys2Proof.Machine
end

