-- ==== Sys2Proof/Machine/Codec.lean ====
section
/-!
DEFINITION. FPC, the DDS frequency/phase codec: 40_dds_codec.md rules R110 to R120.
-/

namespace Sys2Proof.Machine

/-- `tw(hz) = mask_28(round(hz * 2^28, CLOCK_HZ))` (R110). -/
def tuningWord (clockHz hz : Nat) : BitVec 28 := BitVec.ofNat 28 (roundHalfUp (hz * 2 ^ 28) clockHz)

/-- `lsbWord = {0b01, tw[13:0]}` (R88, R111). -/
def lsbWord (tw : BitVec 28) : Half := 0x4000 ||| (tw.extractLsb' 0 14).setWidth 16

/-- `msbWord = {0b01, tw[27:14]}` (R88, R111). -/
def msbWord (tw : BitVec 28) : Half := 0x4000 ||| (tw.extractLsb' 14 14).setWidth 16

/-- `decode(msbWord, lsbWord) = {msbWord[13:0], lsbWord[13:0]}` (R111). -/
def joinFreqWords (msb lsb : Half) : BitVec 28 := 
  (msb.extractLsb' 0 14).setWidth 28 <<< 14 ||| (lsb.extractLsb' 0 14).setWidth 28

/-- `pw(deg) = mask_12(round(deg * 4096, 360))` (R113). -/
def phaseValue (deg : Nat) : BitVec 12 := BitVec.ofNat 12 (roundHalfUp (deg * 4096) 360)

/-- `phase_word(deg) = {0b110, 0b0, pw(deg)} = 0xC000 | pw(deg)` (R89, R114). -/
def phaseWord (deg : Nat) : Half := 0xC000 ||| (phaseValue deg).setWidth 16

/-- FREQ_ENCODE (R116). -/
def execFreqEncode (hz : BitVec 24) : State → StepOutcome :=
  accept fun s =>
    if freqAdmitted hz then
      let tw := tuningWord s.params.clockHz hz.toNat
      respond .success (msbWord tw) (lsbWord tw) 2 s
    else reject .valueTooLarge s

/-- FREQ_LOAD (R117): the LSB-half word, then the MSB-half word, always attempted. -/
def execFreqLoad (hz : BitVec 24) : State → StepOutcome :=
  accept fun s =>
    if freqAdmitted hz then
      let tw := tuningWord s.params.clockHz hz.toNat
      busASend (lsbWord tw) (fun o1 => busASend (msbWord tw) fun o2 s2 =>
        let n := failures o1 + failures o2
        respond (transportStatus n) (msbWord tw) (lsbWord tw) 2 (countErrors n s2)) s
    else reject .valueTooLarge s

/-- PHASE_ENCODE (R118). -/
def execPhaseEncode (deg : BitVec 16) : State → StepOutcome :=
  accept fun s =>
    if phaseAdmitted deg then respond .success (phaseWord deg.toNat) 0 1 s
    else reject .valueTooLarge s

/-- PHASE_LOAD (R119). -/
def execPhaseLoad (deg : BitVec 16) : State → StepOutcome :=
  accept fun s =>
    if phaseAdmitted deg then
      busASend (phaseWord deg.toNat) (fun o s1 =>
        respond (transportStatus (failures o)) (phaseWord deg.toNat) 0 1 (countFailure o s1)) s
    else reject .valueTooLarge s

end Sys2Proof.Machine
end

