-- ==== Sys2Proof/Machine/Control.lean ====
section
/-!
DEFINITION. CRM, the control-register model: 41_control_register.md rules R130 to R136.
-/

namespace Sys2Proof.Machine

/-- `ctl_commit(N)`: send the image, and store it only if its word drew `Ok` (R130). -/
def ctlCommit (n : Half) : State → State :=
  busASend n fun o s =>
    match o with
    | .ok => respond .success n 0 1 (setCtrl n s)
    | .fail => respond .unknownError n 0 1 (countErrors 1 s)

/-- CTRL_GET (R131). -/
def execCtrlGet : State → StepOutcome := accept fun s => respond .success s.ctrl 0 1 s

/-- CTRL_SYNC (R132). -/
def execCtrlSync : State → StepOutcome := accept fun s => ctlCommit s.ctrl s

/-- SET_WAVEFORM (R133). -/
def execSetWaveform (wf : BitVec 3) : State → StepOutcome :=
  accept fun s =>
    match waveformOf wf with
    | none => rejectWaveform s
    | some k => ctlCommit (withWave s.ctrl k) s

/-- SET_GATE (R134). -/
def execSetGate (on : BitVec 1) : State → StepOutcome :=
  accept fun s => ctlCommit (withGate s.params.gateBit s.ctrl on) s

/-- CTRL_RESET (R135). -/
def execCtrlReset : State → StepOutcome := accept fun s => ctlCommit (ctrlResetValue s.params.gateBit) s

end Sys2Proof.Machine
end

