-- ==== Sys2Proof/Machine/Diag.lean ====
section
/-!
DEFINITION. The diagnostic command: 44_diagnostic.md rule R200.
-/

namespace Sys2Proof.Machine

/-- ERR_GET (R200): `zext_32(ERRCNT)`, low half then high half; the counter stays. -/
def execErrGet : State → StepOutcome :=
  accept fun s =>
    let v := BitVec.ofNat 32 s.errcnt
    respond .success (v.extractLsb' 0 16) (v.extractLsb' 16 16) 2 s

end Sys2Proof.Machine
end

