-- ==== Sys2Proof/Machine/Pot.lean ====
section
/-!
DEFINITION. PPK, the potentiometer protocol packer: 43_pot_protocol.md rules R180 to R189.
-/

namespace Sys2Proof.Machine

/-- `byte1 = (a << 4) | (c << 2) | d[9:8]`: `A3 A2 A1 A0 C1 C0 D9 D8` (R91, R182). -/
def potByte1 (a : BitVec 4) (c : BitVec 2) (d : BitVec 16) : Byte := 
  a.setWidth 8 <<< 4 ||| c.setWidth 8 <<< 2 ||| (d.extractLsb' 8 2).setWidth 8

/-- The data byte `d[7:0]` (R91, R182). -/
def potByte2 (d : BitVec 16) : Byte := d.extractLsb' 0 8

/-- `pot_pack(a, c, d)`: the data byte is omitted when `d = 0` (R182, R183). -/
def potPack (a : BitVec 4) (c : BitVec 2) (d : BitVec 16) : List Byte :=
  if d = 0 then [potByte1 a c d] else [potByte1 a c d, potByte2 d]

/-- Write the response of POT_PACK and POT_WRITE: the bytes and how many there are (R92, R184, R185). -/
def respondBytes (st : Status) (bytes : List Byte) (s : State) : State :=
  respond st ((bytes.getD 0 0).setWidth 16) ((bytes.getD 1 0).setWidth 16) (BitVec.ofNat 2 bytes.length) s

/-- POT_PACK (R184). -/
def execPotPack (addr : BitVec 4) (cmd : BitVec 2) (data : BitVec 16) : State → StepOutcome :=
  accept fun s =>
    if potValid addr cmd data then respondBytes .success (potPack addr cmd data) s
    else reject .unknownError s

/-- POT_WRITE (R185). -/
def execPotWrite (addr : BitVec 4) (cmd : BitVec 2) (data : BitVec 16) : State → StepOutcome :=
  accept fun s =>
    if potValid addr cmd data then
      busBWrite (potPack addr cmd data) (fun o s1 =>
        respondBytes (transportStatus (failures o)) (potPack addr cmd data) (countFailure o s1)) s
    else reject .unknownError s

/-- The failure of a transaction of POT_READ: counted, zero results (R186, R214). -/
def potReadFailed (s : State) : State := reject .unknownError (countErrors 1 s)

/-- The read result `(b0 << 8) | b1`, not masked (R61, R187). -/
def readResult (b0 b1 : Byte) : Half := b0.setWidth 16 <<< 8 ||| b1.setWidth 16

/-- POT_READ (R186): the arming write, then the read; the result is the raw 16 bits (R187). -/
def execPotRead (addr : BitVec 4) : State → StepOutcome :=
  accept fun s =>
    if potAddrKnown addr then
      busBWrite (potPack addr (potCommandCode .readData) 0) (fun o1 s1 =>
        match o1 with
        | .fail => potReadFailed s1
        | .ok => busBRead (fun o2 s2 =>
          match o2 with
          | .fail => potReadFailed s2
          | .ok b0 b1 => respond .success (readResult b0 b1) 0 1 s2) s1) s
    else reject .unknownError s

end Sys2Proof.Machine
end

