-- ==== Sys2Proof/Machine/Gain.lean ====
section
/-!
DEFINITION. GCS, the gain-curve solver: 42_gain_curve.md rules R150 to R166. Resistances are integers counting
1/256 ohm (Q.8, R152).
-/

namespace Sys2Proof.Machine

/-- `taps_of(ohms_q8) = ohms_q8 div R_POT_OHMS` (R153). -/
def tapsOf (potOhms ohmsQ8 : Nat) : Nat := ohmsQ8 / potOhms

/-- Branch A: Sine or Triangle, `mv <= 350` (R154). -/
def solveBranchA (potOhms mv : Nat) : Nat × Nat :=
  (Config.tapMax, clamp (tapsOf potOhms (7099 * mv + 270 * 256)) Config.r1FloorTaps Config.tapMax)

/-- The noise floor of branch B: below 80 ohms, every negative value included, the resistance is 0 (R155, R158). -/
def noiseFloor (ohmsQ8 : Int) : Nat := if ohmsQ8 < (Config.noiseFloorOhms * 256 : Nat) then 0 else ohmsQ8.toNat

/-- Branch B: Sine or Triangle, `mv > 350` (R155). -/
def solveBranchB (potOhms mv : Nat) : Nat × Nat :=
  (clamp (tapsOf potOhms (noiseFloor (12000 * 256 - 1455 * (mv : Int)))) 0 Config.tapMax, Config.tapMax)

/-- Branch C: Square or SquareDiv2 (R156). -/
def solveBranchC (potOhms mv : Nat) : Nat × Nat :=
  (Config.tapMax, clamp (tapsOf potOhms (590 * mv + 5952)) 0 Config.tapMax)

/-- `solve(mv, kind) = (r0Taps, r1Taps)` (R159). -/
def solve (potOhms mv : Nat) : Waveform → Nat × Nat
  | .sine | .triangle => if mv ≤ Config.kneeMv then solveBranchA potOhms mv else solveBranchB potOhms mv
  | .square | .squareDiv2 => solveBranchC potOhms mv

/-- Write the response of GAIN_SOLVE and AMP_APPLY: the tap pair (R92). -/
def respondTaps (st : Status) (taps : Nat × Nat) (s : State) : State :=
  respond st (BitVec.ofNat 16 taps.1) (BitVec.ofNat 16 taps.2) 2 s

/-- `tap_write(a, d)`: a WriteData of `d` to the wiper at `a` (R164). -/
def tapWrite (a : BitVec 4) (d : Nat) (rest : Completion → State → State) : State → State :=
  busBWrite (potPack a (potCommandCode .writeData) (BitVec.ofNat 16 d)) rest

/-- GAIN_SOLVE (R162): the range check comes before the waveform check (R161, R212). -/
def execGainSolve (wf : BitVec 3) (mv : BitVec 16) : State → StepOutcome :=
  accept fun s =>
    if ampAdmitted mv then
      match waveformOf wf with
      | none => rejectWaveform s
      | some k => respondTaps .success (solve s.params.potOhms mv.toNat k) s
    else reject .valueTooLarge s

/-- AMP_APPLY (R163): Wiper0 gets `r0Taps`, then Wiper1 gets `r1Taps`, both always attempted. -/
def execAmpApply (wf : BitVec 3) (mv : BitVec 16) : State → StepOutcome :=
  accept fun s =>
    if ampAdmitted mv then
      match waveformOf wf with
      | none => rejectWaveform s
      | some k =>
        let taps := solve s.params.potOhms mv.toNat k
        tapWrite wiper0Addr taps.1 (fun o0 => tapWrite wiper1Addr taps.2 fun o1 s2 =>
          let n := failures o0 + failures o1
          respondTaps (transportStatus n) taps (countErrors n s2)) s
    else reject .valueTooLarge s

end Sys2Proof.Machine
end

