-- ==== Sys2Proof/Machine/Dispatch.lean ====
section
/-!
DEFINITION. One arm per command: each calls its meaning.
-/

namespace Sys2Proof.Machine

/-- The meaning of a decoded command. -/
def exec (i : Instr) (s : State) : Host.Outcome State Fault Refusal :=
  match i with
  | .freqEncode hz => Sys2Proof.Machine.execFreqEncode hz s
  | .freqLoad hz => Sys2Proof.Machine.execFreqLoad hz s
  | .phaseEncode deg => Sys2Proof.Machine.execPhaseEncode deg s
  | .phaseLoad deg => Sys2Proof.Machine.execPhaseLoad deg s
  | .ctrlGet => Sys2Proof.Machine.execCtrlGet s
  | .ctrlSync => Sys2Proof.Machine.execCtrlSync s
  | .setWaveform wf => Sys2Proof.Machine.execSetWaveform wf s
  | .setGate on => Sys2Proof.Machine.execSetGate on s
  | .ctrlReset => Sys2Proof.Machine.execCtrlReset s
  | .gainSolve wf mv => Sys2Proof.Machine.execGainSolve wf mv s
  | .ampApply wf mv => Sys2Proof.Machine.execAmpApply wf mv s
  | .potPack addr cmd data => Sys2Proof.Machine.execPotPack addr cmd data s
  | .potWrite addr cmd data => Sys2Proof.Machine.execPotWrite addr cmd data s
  | .potRead addr => Sys2Proof.Machine.execPotRead addr s
  | .errGet => Sys2Proof.Machine.execErrGet s

end Sys2Proof.Machine
end

