-- ==== Sys2Proof/Machine/Sequencer.lean ====
section
/-!
DEFINITION. SEQ, the command sequencer: it decodes one command word at a time and runs it (00_scope.md rule R1,
30_encoding.md rule R80, 60_exceptions.md rule R215).
-/

namespace Sys2Proof.Machine

/-- Run a presented command word: a legal one by its meaning, an illegal one by rules R85 and R86. -/
def runCommand (w : Word) (s : State) : StepOutcome :=
  match decode w with
  | .ok i => exec i s
  | .error e => illegalCommand e s

/-- What the block does with a move of the host; `s` is the state with that move taken. -/
def takeHostMove (m : HostMove) (s : State) : StepOutcome :=
  match m with
  | .present w => runCommand w s
  | .assertReset => .next (resetBlock s)
  | .presentThenReset w k => .next (abandonCommand k (runCommand w s) s)

/-- One step of the sequencer: the host's next move, or waiting for one (R241). -/
def sequencerStep (s : State) : StepOutcome :=
  match takeMove s with
  | none => awaitCommand s
  | some (m, t) => takeHostMove m t

/-- `s` with the host's next move presenting the command word `w`. -/
def presentWord (w : Word) (s : State) : State := { s with host := .present w :: s.host }

end Sys2Proof.Machine
end

