-- ==== Sys2Proof/WellFormed.lean ====
section
/-!
DEFINITION. What is checked before anything reaches the block: the parameters of an instance (00_scope.md rule R7)
and the operands of an assembler line (30_encoding.md rule R93: "An assembler refuses an operand that does not fit
its field"). A decoded `Instr` needs no check of its own: its fields have the widths of rule R81 by type.
-/

namespace Sys2Proof

/-- The constraints of rule R7 on raw parameter values. -/
def paramsWellFormed (clockHz potOhms potBusAddr gateBit errcntWidth : Nat) : Bool :=
  decide (1 ≤ clockHz) && decide (1 ≤ potOhms) && decide (potBusAddr ≤ 127)
    && (gateBit == 6 || gateBit == 8) && decide (1 ≤ errcntWidth) && decide (errcntWidth ≤ 32)

/-- The operand fields of the command formats (rule R81). -/
inductive OperandKind where
  | hz
  | deg
  | wf
  | gate
  | mv
  | addr
  | cmd
  | data
  deriving DecidableEq, Repr

/-- The width of each operand field (rules R81, R82). -/
def OperandKind.width : OperandKind → Nat
  | .hz => 24
  | .deg => 16
  | .wf => 3
  | .gate => 1
  | .mv => 16
  | .addr => 4
  | .cmd => 2
  | .data => 16

/-- An assembler line whose operands are numbers already: the mnemonic and the operands in the order of rule R93. -/
structure SourceLine where
  mnemonic : String
  operands : List Nat
  deriving DecidableEq, Repr

/-- The operands of each mnemonic of rule R93 and of each pseudo-instruction of rule R94, in assembly order. -/
def signatures : List (String × List OperandKind) :=
  [("FREQ_ENCODE", [.hz]), ("FREQ_LOAD", [.hz]), ("PHASE_ENCODE", [.deg]), ("PHASE_LOAD", [.deg]),
   ("CTRL_GET", []), ("CTRL_SYNC", []), ("SET_WAVEFORM", [.wf]), ("SET_GATE", [.gate]), ("CTRL_RESET", []),
   ("GAIN_SOLVE", [.mv, .wf]), ("AMP_APPLY", [.mv, .wf])]
  ++ [("POT_PACK", [.addr, .cmd, .data]), ("POT_WRITE", [.addr, .cmd, .data]), ("POT_READ", [.addr]),
   ("ERR_GET", []), ("MUTE", []), ("UNMUTE", []), ("POT_SET", [.addr, .data]), ("POT_INC", [.addr]),
   ("POT_DEC", [.addr])]

/-- The operand kinds of a mnemonic, if there is such a mnemonic. -/
def signatureOf (mnemonic : String) : Option (List OperandKind) :=
  (signatures.find? fun row => row.1 == mnemonic).map fun row => row.2

/-- Each operand fits the field it is for, and there are as many operands as fields. -/
def operandsFit : List OperandKind → List Nat → Bool
  | [], [] => true
  | k :: ks, n :: ns => decide (n < 2 ^ k.width) && operandsFit ks ns
  | _, _ => false

/-- A line is well formed when its mnemonic exists and its operands fit (rule R93). -/
def SourceLine.wellFormed (l : SourceLine) : Bool :=
  match signatureOf l.mnemonic with
  | none => false
  | some ks => operandsFit ks l.operands

end Sys2Proof
end

