-- ==== Sys2Proof/Machine/Assembler.lean ====
section
/-!
DEFINITION. The assembler syntax and the pseudo-instructions (30_encoding.md rules R93, R94), and the host command
sequences the spec writes out (70_reset_and_hazards.md rules R244, R245). None of it is part of the block.
-/

namespace Sys2Proof.Machine

/-- The symbolic names of an operand field (R93). -/
def symbolsOf : OperandKind → List (String × Nat)
  | .wf => [("SINE", 0), ("TRIANGLE", 1), ("SQUARE", 2), ("SQUARE_DIV2", 3)]
  | .gate => [("OFF", 0), ("ON", 1)]
  | .addr =>
    [("WIPER0", 0), ("WIPER1", 1), ("NVWIPER0", 2), ("NVWIPER1", 3), ("TCON", 4), ("STATUS", 5)]
  | .cmd => [("WR", 0), ("INC", 1), ("DEC", 2), ("RD", 3)]
  | .hz => []
  | .deg => []
  | .mv => []
  | .data => []

/-- The digit characters in the order of their values, one row for each letter case (R93; log entry 10). -/
def digitRows : List String := ["0123456789ABCDEF", "0123456789abcdef"]

/-- The value of a digit character: its place in a row. -/
def digitValue (c : Char) : Option Nat := digitRows.findSome? fun row => row.toList.idxOf? c

/-- The number a list of digits stands for in a base; `acc` is the value of the digits before them. -/
def digitsValue (base acc : Nat) : List Char → Option Nat
  | [] => some acc
  | c :: cs =>
    match digitValue c with
    | some v => if v < base then digitsValue base (acc * base + v) cs else none
    | none => none

/-- A number: decimal, or hexadecimal with `0x` (R93). -/
def parseNumber : List Char → Option Nat
  | [] => none
  | '0' :: 'x' :: c :: cs => digitsValue 16 0 (c :: cs)
  | c :: cs => digitsValue 10 0 (c :: cs)

/-- An operand: a symbolic name of its field, or a number (R93). -/
def parseOperand (k : OperandKind) (cs : List Char) : Option Nat :=
  match (symbolsOf k).find? fun row => row.1.toList == cs with
  | some row => some row.2
  | none => parseNumber cs

/-- Blank characters inside a line. -/
def isBlank (c : Char) : Bool := c == ' ' || c == '\t' || c == '\r'

/-- A text without the blanks at its ends. -/
def trim (cs : List Char) : List Char := ((cs.dropWhile isBlank).reverse.dropWhile isBlank).reverse

/-- The pieces of a text between its commas. -/
def splitCommas (cs : List Char) : List (List Char) :=
  cs.foldr (fun c acc =>
    match acc with
    | [] => [[c]]
    | piece :: more => if c == ',' then [] :: piece :: more else (c :: piece) :: more) [[]]

/-- Read each operand as its field. -/
def parseOperands : List OperandKind → List (List Char) → Option (List Nat)
  | [], [] => some []
  | k :: ks, p :: ps =>
    match parseOperand k (trim p), parseOperands ks ps with
    | some n, some ns => some (n :: ns)
    | _, _ => none
  | _, _ => none

/-- The instruction of a well-formed source line (R93); a pseudo-instruction expands to one command (R94). -/
def instrOfSource (l : SourceLine) : Option Instr :=
  if l.wellFormed then
    match l.mnemonic, l.operands with
    | "FREQ_ENCODE", [hz] => some (.freqEncode (.ofNat 24 hz))
    | "FREQ_LOAD", [hz] => some (.freqLoad (.ofNat 24 hz))
    | "PHASE_ENCODE", [deg] => some (.phaseEncode (.ofNat 16 deg))
    | "PHASE_LOAD", [deg] => some (.phaseLoad (.ofNat 16 deg))
    | "CTRL_GET", [] => some .ctrlGet
    | "CTRL_SYNC", [] => some .ctrlSync
    | "SET_WAVEFORM", [wf] => some (.setWaveform (.ofNat 3 wf))
    | "SET_GATE", [on] => some (.setGate (.ofNat 1 on))
    | "CTRL_RESET", [] => some .ctrlReset
    | "GAIN_SOLVE", [mv, wf] => some (.gainSolve (.ofNat 3 wf) (.ofNat 16 mv))
    | "AMP_APPLY", [mv, wf] => some (.ampApply (.ofNat 3 wf) (.ofNat 16 mv))
    | "POT_PACK", [a, c, d] => some (.potPack (.ofNat 4 a) (.ofNat 2 c) (.ofNat 16 d))
    | "POT_WRITE", [a, c, d] => some (.potWrite (.ofNat 4 a) (.ofNat 2 c) (.ofNat 16 d))
    | "POT_READ", [a] => some (.potRead (.ofNat 4 a))
    | "ERR_GET", [] => some .errGet
    | "MUTE", [] => some (.setGate 0)
    | "UNMUTE", [] => some (.setGate 1)
    | "POT_SET", [a, d] => some (.potWrite (.ofNat 4 a) (potCommandCode .writeData) (.ofNat 16 d))
    | "POT_INC", [a] => some (.potWrite (.ofNat 4 a) (potCommandCode .increment) 0)
    | "POT_DEC", [a] => some (.potWrite (.ofNat 4 a) (potCommandCode .decrement) 0)
    | _, _ => none
  else none

/-- What the assembler makes of a line. -/
inductive Assembled where
  /-- Blank, or only a comment. -/
  | nothing
  | command (w : Word)
  /-- No such mnemonic, or an operand that does not fit its field. -/
  | refused
  deriving DecidableEq, Repr

/-- Assemble the operands of a mnemonic. -/
def assembleCommand (mnemonic : List Char) (operands : List Char) : Assembled :=
  match signatureOf (String.ofList mnemonic) with
  | none => .refused
  | some ks =>
    let pieces := if (trim operands).isEmpty then [] else splitCommas operands
    match parseOperands ks pieces with
    | none => .refused
    | some ns =>
      match instrOfSource ⟨String.ofList mnemonic, ns⟩ with
      | none => .refused
      | some i => .command (encode i)

/-- Assemble one line: `;` starts a comment, the mnemonic comes first, then the operands separated by commas (R93;
log entry 10). -/
def assembleLine (line : String) : Assembled :=
  let text := trim (line.toList.takeWhile fun c => c != ';')
  if text.isEmpty then .nothing
  else assembleCommand (text.takeWhile fun c => !isBlank c) (text.dropWhile fun c => !isBlank c)

/-- The boot sequence that mirrors the source's reset() (R244). -/
def bootSequence : List Instr := [.ctrlReset, .freqLoad 0, .phaseLoad 0, .ampApply 0 0]

/-- The mute-around sequence of a waveform change: gate off, the new waveform, the current amplitude for it, the gate as
it was (R245). -/
def waveformChangeSequence (wf : BitVec 3) (mv : BitVec 16) (previousGate : BitVec 1) : List Instr :=
  [.setGate 0, .setWaveform wf, .ampApply wf mv, .setGate previousGate]

/-- `s` with the host about to present a list of commands, one after another (R247). -/
def presentCommands (is : List Instr) (s : State) : State :=
  { s with host := is.map (fun i => HostMove.present (encode i)) ++ s.host }

end Sys2Proof.Machine
end

