-- ==== Sys2Proof/Machine/Bus.lean ====
section
/-!
DEFINITION. What the bus events carry: 20_memory.md rules R51 to R62.
-/

namespace Sys2Proof.Machine

/-- The target a bus-A word selects (R53). -/
inductive DdsTarget where
  | control
  | freq0
  | freq1
  | phase0
  | phase1
  deriving DecidableEq, Repr

/-- The DDS register-select map: bits 15:14, and bit 13 for tag `11` (R53). -/
def ddsTarget (w : Half) : DdsTarget :=
  match (w.extractLsb' 14 2).toNat with
  | 0 => .control
  | 1 => .freq0
  | 2 => .freq1
  | _ => if w.getLsbD 13 then .phase1 else .phase0

/-- Is the event a FREQ0 word? -/
def isFreq0Word : Event → Bool
  | .aWord w _ => ddsTarget w == .freq0
  | .bWrite _ _ => false
  | .bRead _ => false

/-- Has the event completed, with an outcome recorded (R31)? -/
def eventCompleted : Event → Bool
  | .aWord _ o => o.isSome
  | .bWrite _ o => o.isSome
  | .bRead o => o.isSome

/-- The bytes of an event in the order they go over its bus: a bus-A word high byte first (R52); on bus B the address
byte (`POT_BUS_ADDR` in bits 7:1, direction in bit 0, 0 = write: PRESUMED, log entry 11), then the data bytes, those of a
completed read coming from the chip (R55, R61).

DESIGN CHOICE, unsafe (log entry 15): which bytes of an event that draws `Fail` or `Hang` go over the bus is nowhere said
(R55, N15). This gives every byte the block has to send: both of a bus-A word, address and data of a bus-B write, and the
address byte alone of a bus-B read, whose data bytes are the chip's to send. -/
def wireBytes (p : Params) : Event → List Byte
  | .aWord w _ => [w.extractLsb' 8 8, w.extractLsb' 0 8]
  | .bWrite bytes _ => (p.potBusAddr.setWidth 8 <<< 1) :: bytes
  | .bRead (some (.ok b0 b1)) => [p.potBusAddr.setWidth 8 <<< 1 ||| 1, b0, b1]
  | .bRead _ => [p.potBusAddr.setWidth 8 <<< 1 ||| 1]

/-- The register nibble of a command byte (R91). -/
def byteAddr (b : Byte) : BitVec 4 := b.extractLsb' 4 4

/-- The command bits of a command byte (R91). -/
def byteCommand (b : Byte) : BitVec 2 := b.extractLsb' 2 2

end Sys2Proof.Machine
end

