-- ==== Sys2Proof/Machine/RefEnv.lean ====
section
/-!
DEFINITION. The reference environment of 20_memory.md rule R66: the two chips' registers as device state outside the
block (10_state.md rule R32), and the law their answers follow. It is optional: only a claim that names it uses it.
An event outside the environment has no device state after it (`none`; log entry 8).
-/

namespace Sys2Proof.Machine

/-- The device registers of the reference environment (R66). -/
structure Device where
  /-- The DDS chip's control register, `w[13:0]`. -/
  control : BitVec 14
  /-- FREQ0, the 28-bit tuning word in effect. -/
  freq0 : BitVec 28
  /-- The LSB half loaded by the first FREQ0 word of a pair. -/
  lsbHalf : BitVec 14
  /-- The pending-half flag. -/
  pendingHalf : Bool
  /-- PHASE0. -/
  phase0 : BitVec 12
  /-- The wiper registers at addresses 0x0 to 0x3. -/
  wiper0 : BitVec 9
  wiper1 : BitVec 9
  nonVolatileWiper0 : BitVec 9
  nonVolatileWiper1 : BitVec 9
  /-- The register the last ReadData byte selected. -/
  readSelect : Option PotRegister
  deriving DecidableEq, Repr

/-- The device at the chips' power-on: no half is pending (R66). No rule gives the other registers then, so they are those
of the argument, whatever they hold (log entry 8). -/
def devicePowerOn (d : Device) : Device := { d with pendingHalf := false }

/-- The data of a wiper register; Tcon and the status register are outside the environment (R66). -/
def deviceWiper (d : Device) : PotRegister → Option (BitVec 9)
  | .wiper0 => some d.wiper0
  | .wiper1 => some d.wiper1
  | .nonVolatileWiper0 => some d.nonVolatileWiper0
  | .nonVolatileWiper1 => some d.nonVolatileWiper1
  | .tcon => none
  | .statusRegister => none

/-- A WriteData to a register (R66). -/
def deviceSetWiper (d : Device) (r : PotRegister) (v : BitVec 9) : Option Device :=
  match r with
  | .wiper0 => some { d with wiper0 := v }
  | .wiper1 => some { d with wiper1 := v }
  | .nonVolatileWiper0 => some { d with nonVolatileWiper0 := v }
  | .nonVolatileWiper1 => some { d with nonVolatileWiper1 := v }
  | .tcon => none
  | .statusRegister => none

/-- A FREQ0 word: with B28 = 1 it loads the LSB half or, with a half pending, the MSB half and applies the pair (R54,
R66). With B28 = 0 the environment gives it no effect. -/
def deviceFreqWord (d : Device) (half : BitVec 14) : Option Device :=
  if d.control.getLsbD 13 then
    if d.pendingHalf then some { d with freq0 := half.setWidth 28 <<< 14 ||| d.lsbHalf.setWidth 28, pendingHalf := false }
    else some { d with lsbHalf := half, pendingHalf := true }
  else none

/-- A bus-A word (R53, R66). -/
def deviceWord (d : Device) (w : Half) : Option Device :=
  match ddsTarget w with
  | .control => some { d with control := w.extractLsb' 0 14 }
  | .freq0 => deviceFreqWord d (w.extractLsb' 0 14)
  | .phase0 => some { d with phase0 := w.extractLsb' 0 12 }
  | .freq1 => none
  | .phase1 => none

/-- A bus-B write of a command byte with data `v`. A ReadData byte selects its register, whether or not a data byte comes
with it; increment and decrement are outside the environment (R66). -/
def devicePotCommand (d : Device) (b : Byte) (v : BitVec 9) : Option Device :=
  match potRegisterOf (byteAddr b) with
  | none => none
  | some r =>
    match potCommandOf (byteCommand b) with
    | .writeData => deviceSetWiper d r v
    | .readData => (deviceWiper d r).map fun _ => { d with readSelect := some r }
    | .increment => none
    | .decrement => none

/-- The device after an event of the environment; `none` when the event is outside it (R66). -/
def deviceEvent (d : Device) : Event → Option Device
  | .aWord w (some .ok) => deviceWord d w
  | .bWrite [b] (some .ok) => devicePotCommand d b 0
  | .bWrite [b, v] (some .ok) => devicePotCommand d b ((b.extractLsb' 0 1).setWidth 9 <<< 8 ||| v.setWidth 9)
  | .bRead (some (.ok b0 b1)) =>
    match d.readSelect.bind (deviceWiper d) with
    | some v => if b0 = (v.extractLsb' 8 1).setWidth 8 ∧ b1 = v.extractLsb' 0 8 then some d else none
    | none => none
  | _ => none

/-- The device after a list of events, `none` when one of them is outside the environment (R66). -/
def deviceRun (d : Device) : List Event → Option Device
  | [] => some d
  | e :: es => (deviceEvent d e).bind fun d' => deviceRun d' es

end Sys2Proof.Machine
end

