-- ==== Sys2Proof/Safety.lean ====
section
/-!
DEFINITION. What a sound state of the block is: the spec's own words about `CTRL`, `ERRCNT`, `RSP_STATUS`, `RSP_LEN`,
`RUN` and `TRACE` that hold of every state a run reaches.
-/

namespace Sys2Proof.Machine

/-- `s` after a command's bus events: they are in the trace, and as many answers are used up (R31, R58). -/
def afterEvents (es : List Event) (s : State) : State :=
  { s with trace := s.trace ++ es, draws := s.draws.drop es.length, drawn := s.drawn + es.length }

/-- `CTRL` is one of the eight legal images (10_state.md R28). -/
abbrev CtrlLegal (s : State) : Prop := s.ctrl ∈ legalImages s.params.gateBit

/-- `ERRCNT` fits `ERRCNT_WIDTH` bits (R29). -/
abbrev ErrcntInWidth (s : State) : Prop := s.errcnt < 2 ^ s.params.errcntWidth

/-- `RSP_STATUS` is Success, UnknownError, ValueTooLarge or OtherError (60_exceptions.md R211). -/
abbrev StatusWritten (s : State) : Prop := s.rspStatus = 0 ∨ s.rspStatus = 1 ∨ s.rspStatus = 3 ∨ s.rspStatus = 4

/-- `RSP_LEN` is 0, 1 or 2 (R22). -/
abbrev LenLegal (s : State) : Prop := s.rspLen = 0 ∨ s.rspLen = 1 ∨ s.rspLen = 2

/-- Every event of the trace but the last has completed, and the last one has not exactly when the block is hung (R30,
R31, R217). -/
abbrev TraceSettled (s : State) : Prop :=
  s.trace.dropLast.all eventCompleted = true ∧
    (s.run = .hung ↔ (s.trace.getLast?.map eventCompleted) = some false)

/-- An event of the kinds the block emits: a legal control image, a FREQ0 word or a PHASE0 word with bit 12 = 0 (R53,
R89, R90), a write of one or two bytes to a known register with data at most 256 (R59, R180, R183), or a read. -/
def eventEmittable (g : GateBit) : Event → Bool
  | .aWord w _ =>
    match ddsTarget w with
    | .control => decide (w ∈ legalImages g)
    | .freq0 => true
    | .phase0 => !w.getLsbD 12
    | .freq1 => false
    | .phase1 => false
  | .bWrite [b] _ => potAddrKnown (byteAddr b) && b.extractLsb' 0 2 == 0
  | .bWrite [b, v] _ =>
    potAddrKnown (byteAddr b) && (b.extractLsb' 0 2 == 0 && v != 0 || b.extractLsb' 0 2 == 1 && v == 0)
  | .bWrite _ _ => false
  | .bRead _ => true

/-- The trace holds only events of those kinds. -/
abbrev TraceEmittable (s : State) : Prop := s.trace.all (eventEmittable s.params.gateBit) = true

/-- FREQ0 words come in pairs, each second one right after its first; only an uncompleted first word at the end stands
alone (R59, R63, R248, R249). -/
def freqPaired : List Event → Bool
  | [] => true
  | [e] => !isFreq0Word e || !eventCompleted e
  | e1 :: e2 :: rest => if isFreq0Word e1 then isFreq0Word e2 && freqPaired rest else freqPaired (e2 :: rest)

/-- The event arms a read: a completed write of a lone ReadData command byte (R60, R186). -/
def armsRead : Event → Bool
  | .bWrite [b] (some .ok) => potCommandOf (byteCommand b) == .readData
  | _ => false

/-- Is the event a bus-B read? -/
def isRead : Event → Bool
  | .bRead _ => true
  | .aWord _ _ => false
  | .bWrite _ _ => false

/-- Every read follows an arming write directly; `armed` says whether the event before the list armed one (R186). -/
def readsArmed (armed : Bool) : List Event → Bool
  | [] => true
  | e :: es => (!isRead e || armed) && readsArmed (armsRead e) es

/-- A sound state. -/
structure Sound (s : State) : Prop where
  ctrl : CtrlLegal s
  errcnt : ErrcntInWidth s
  status : StatusWritten s
  len : LenLegal s
  settled : TraceSettled s
  emittable : TraceEmittable s
  paired : freqPaired s.trace = true
  armed : readsArmed false s.trace = true

end Sys2Proof.Machine

/-! The arithmetic the statements write results out with. -/

namespace Sys2Proof.Claims

/-- The tuning word of 40_dds_codec.md rule R110, as a number: round half up, then 28 bits. -/
def tuning (clockHz hz : Nat) : Nat := (2 * (hz * 2 ^ 28) + clockHz) / (2 * clockHz) % 2 ^ 28

/-- The LSB-half frequency word of rule R88. -/
def lsbOf (tw : Nat) : Half := BitVec.ofNat 16 (0x4000 + tw % 2 ^ 14)

/-- The MSB-half frequency word of rule R88. -/
def msbOf (tw : Nat) : Half := BitVec.ofNat 16 (0x4000 + tw / 2 ^ 14)

/-- The phase word of rules R113 and R114. -/
def phaseOf (deg : Nat) : Half := BitVec.ofNat 16 (0xC000 + (2 * (deg * 4096) + 360) / 720 % 4096)

/-- 1 for a failed bus event, 0 for one that drew Ok. -/
def failed (o : Machine.Completion) : Nat := if o = .fail then 1 else 0

/-- The gate bit as a number: `1 << GATE_BIT`. -/
def gateValue (g : GateBit) : Half :=
  match g with
  | .reset8 => 0x0100
  | .sleep12 => 0x0040

/-- How many events of a trace drew `Fail`. -/
def failCount : List Machine.Event → Nat
  | [] => 0
  | .aWord _ o :: es => (if o = some .fail then 1 else 0) + failCount es
  | .bWrite _ o :: es => (if o = some .fail then 1 else 0) + failCount es
  | .bRead o :: es => (if o = some .fail then 1 else 0) + failCount es

/-- The operand is outside the engineering range of its command (60_exceptions.md rule R212 step 3). -/
def outOfRange : Instr → Prop
  | .freqEncode hz => 8000000 < hz.toNat
  | .freqLoad hz => 8000000 < hz.toNat
  | .phaseEncode deg => 360 < deg.toNat
  | .phaseLoad deg => 360 < deg.toNat
  | .gainSolve _ mv => 4000 < mv.toNat
  | .ampApply _ mv => 4000 < mv.toNat
  | .ctrlGet | .ctrlSync | .setWaveform _ | .setGate _ | .ctrlReset => False
  | .potPack _ _ _ | .potWrite _ _ _ | .potRead _ | .errGet => False

/-- The command carries an unknown waveform code (rule R212 step 4). -/
def unknownWaveform : Instr → Prop
  | .setWaveform wf => 4 ≤ wf.toNat
  | .gainSolve wf _ => 4 ≤ wf.toNat
  | .ampApply wf _ => 4 ≤ wf.toNat
  | .freqEncode _ | .freqLoad _ | .phaseEncode _ | .phaseLoad _ => False
  | .ctrlGet | .ctrlSync | .setGate _ | .ctrlReset => False
  | .potPack _ _ _ | .potWrite _ _ _ | .potRead _ | .errGet => False

/-- The command carries an invalid potentiometer triple (rule R212 step 4; 43_pot_protocol.md rule R180). -/
def invalidTriple : Instr → Prop
  | .potPack a _ d => 6 ≤ a.toNat ∨ 256 < d.toNat
  | .potWrite a _ d => 6 ≤ a.toNat ∨ 256 < d.toNat
  | .potRead a => 6 ≤ a.toNat
  | .freqEncode _ | .freqLoad _ | .phaseEncode _ | .phaseLoad _ => False
  | .ctrlGet | .ctrlSync | .setWaveform _ | .setGate _ | .ctrlReset => False
  | .gainSolve _ _ | .ampApply _ _ | .errGet => False

end Sys2Proof.Claims
end

