-- ==== Sys2Proof/Certificates/Slice0/Obligations.lean ====
section
/-!
DEFINITION. The statements about the block, for the provers. Results are written out as arithmetic on natural numbers
here, not by the functions the meanings call, except where a rule of the spec names such a function itself.
-/

open Sys2Proof Sys2Proof.Machine Sys2Proof.Claims

/-! ## Reset, waiting and stepping -/

/-- 70_reset_and_hazards.md R240 and 10_state.md R27: reset, asserted at any time (the block idle, hung, or running a
command), leaves the table's values; the one taken at power-on leaves them too. -/
def Obligations.ResetFromAnyState : Prop :=
  (∀ (s : State) (m : HostMove) (rest : List HostMove), s.host = m :: rest →
    (m = .assertReset ∨ ∃ w k, m = .presentThenReset w k) →
    ∃ t, step s = .next t ∧ t.ctrl = 0x2000 + gateValue s.params.gateBit ∧ t.errcnt = 0 ∧ t.rspStatus = 0 ∧
      t.rspR0 = 0 ∧ t.rspR1 = 0 ∧ t.rspLen = 0 ∧ t.run = .idle ∧ t.trace = []) ∧
  (∀ p : Params, (State.resetWith p).ctrl = 0x2000 + gateValue p.gateBit ∧ (State.resetWith p).errcnt = 0 ∧
    (State.resetWith p).rspStatus = 0 ∧ (State.resetWith p).rspR0 = 0 ∧ (State.resetWith p).rspR1 = 0 ∧
    (State.resetWith p).rspLen = 0 ∧ (State.resetWith p).run = .idle ∧ (State.resetWith p).trace = [])

/-- The model's deduction from 70_reset_and_hazards.md R240 (log entry 6, with entries 1 to 3 for the fields): what is not
the block's outlasts a reset. The parameters and the host's later moves stay; a reset between commands uses no bus answer;
one that comes after `k` primitives of a command had started uses at most `k` answers, and at most the two that a command
can use. -/
def Obligations.ResetLeavesTheOutside : Prop :=
  ∀ (s : State) (m : HostMove) (rest : List HostMove), s.host = m :: rest →
    (m = .assertReset → ∃ t, step s = .next t ∧ t.params = s.params ∧ t.host = rest ∧ t.draws = s.draws ∧
      t.drawn = s.drawn) ∧
    (∀ w k, m = .presentThenReset w k → ∃ t n, n ≤ k ∧ n ≤ 2 ∧ step s = .next t ∧ t.params = s.params ∧ t.host = rest ∧
      t.draws = s.draws.drop n ∧ t.drawn = s.drawn + n)

/-- 30_encoding.md R80 and 60_exceptions.md R215: a presented word that decodes to a command runs that command. That the
host's moves are a list in State whose first move a step takes, and that `withFetchWord` puts a presented word in front of
it, is the model's choice (log entry 2). -/
def Obligations.StepRunsTheDecodedCommand : Prop :=
  (∀ (s : State) (w : Word) (rest : List HostMove) (i : Instr), s.host = .present w :: rest → decode w = .ok i →
    step s = exec i { s with host := rest }) ∧
  (∀ (s : State) (nbits w : Nat) (i : Instr), decode (BitVec.ofNat 32 (w % 2 ^ nbits)) = .ok i →
    step (s.withFetchWord nbits w) = exec i s)

/-- 70_reset_and_hazards.md R241: an idle block with no command presented waits (that a step then changes nothing is
the model's choice, log entry 5). -/
def Obligations.IdleBlockWaits : Prop :=
  ∀ s : State, s.run = .idle → s.host = [] → step s = .next s

/-- 60_exceptions.md R217, R215: while `RUN = Hung` no command, legal or not, is accepted; the step stops with the
fault `hung` (log entry 4), and it is the only fault there is. -/
def Obligations.HungBlockAcceptsNothing : Prop :=
  (∀ (i : Instr) (s : State), s.run = .hung → exec i s = .fault .hung) ∧
  (∀ (s : State) (w : Word) (rest : List HostMove), s.run = .hung → s.host = .present w :: rest →
    step s = .fault .hung) ∧
  (∀ (i : Instr) (s : State), s.run = .idle → ∃ t, exec i s = .next t)

/-- 60_exceptions.md R217 and 00_scope.md R58 of the buses: a command whose primitives draw no `Hang` completes: it ends
with the block idle again. Two answers are enough, since no command makes more than two bus events. -/
def Obligations.CommandCompletesWithoutHang : Prop :=
  ∀ (i : Instr) (s : State), s.run = .idle → (drawAt s 0).outcome ≠ .hang → (drawAt s 1).outcome ≠ .hang →
    ∃ t, exec i s = .next t ∧ t.run = .idle

/-! ## Decoding -/

/-- 30_encoding.md R80 to R84: decoding a command's word gives the command back, with every operand at every value. -/
def Obligations.DecodeOfEncode : Prop := ∀ i : Instr, decode (encode i) = .ok i

/-- 30_encoding.md R80 to R86: a word that decodes to a command is that command's word: no bit of it is dropped. -/
def Obligations.EncodeOfDecode : Prop := ∀ (w : Word) (i : Instr), decode w = .ok i → encode i = w

/-- 30_encoding.md R93: the example words of the assembly table. -/
def Obligations.ExampleWordsDecode : Prop :=
  decode 0x010003E8 = .ok (.freqEncode 1000) ∧ decode 0x020003E8 = .ok (.freqLoad 1000) ∧
  decode 0x0300005A = .ok (.phaseEncode 90) ∧ decode 0x0400005A = .ok (.phaseLoad 90) ∧
  decode 0x10000000 = .ok .ctrlGet ∧ decode 0x11000000 = .ok .ctrlSync ∧
  decode 0x12000001 = .ok (.setWaveform 1) ∧ decode 0x13000001 = .ok (.setGate 1) ∧
  decode 0x14000000 = .ok .ctrlReset ∧ decode 0x200003E8 = .ok (.gainSolve 0 1000) ∧
  decode 0x210103E8 = .ok (.ampApply 1 1000) ∧ decode 0x30100080 = .ok (.potPack 1 0 128) ∧
  decode 0x31000100 = .ok (.potWrite 0 0 256) ∧ decode 0x32100000 = .ok (.potRead 1) ∧
  decode 0x40000000 = .ok .errGet

/-- 30_encoding.md R86: a word whose `OPC` is not in the map ends with `OtherError` and zero results, and changes
nothing else. -/
def Obligations.UnassignedOpcodeRejected : Prop :=
  ∀ (s : State) (w : Word) (rest : List HostMove), s.run = .idle → s.host = .present w :: rest →
    w.toNat / 2 ^ 24 ∉
      [0x01, 0x02, 0x03, 0x04, 0x10, 0x11, 0x12, 0x13, 0x14, 0x20, 0x21, 0x30, 0x31, 0x32, 0x40] →
    step s = .next { s with host := rest, rspStatus := 4, rspR0 := 0, rspR1 := 0, rspLen := 0 }

/-- 30_encoding.md R85: a word whose `OPC` is in the map with a 1 in a reserved bit of its format ends the same way. The
list pairs each opcode with the reserved bits of its format. -/
def Obligations.ReservedBitRejected : Prop :=
  ∀ (s : State) (w : Word) (rest : List HostMove) (opc : Nat) (reserved : Word), s.run = .idle →
    s.host = .present w :: rest →
    (opc, reserved) ∈ [(0x03, 0x00FF0000#32), (0x04, 0x00FF0000), (0x10, 0x00FFFFFF), (0x11, 0x00FFFFFF),
      (0x12, 0x00FFFFF8), (0x13, 0x00FFFFFE), (0x14, 0x00FFFFFF), (0x20, 0x00F80000), (0x21, 0x00F80000),
      (0x30, 0x00030000), (0x31, 0x00030000), (0x32, 0x000FFFFF), (0x40, 0x00FFFFFF)] →
    w.toNat / 2 ^ 24 = opc → w &&& reserved ≠ 0 →
    step s = .next { s with host := rest, rspStatus := 4, rspR0 := 0, rspR1 := 0, rspLen := 0 }

/-! ## FPC -/

/-- 40_dds_codec.md R116: FREQ_ENCODE. -/
def Obligations.FreqEncodeRule : Prop :=
  ∀ (hz : BitVec 24) (s : State), s.run = .idle →
    (8000000 < hz.toNat → exec (.freqEncode hz) s =
      .next { s with rspStatus := 3, rspR0 := 0, rspR1 := 0, rspLen := 0 }) ∧
    (hz.toNat ≤ 8000000 → exec (.freqEncode hz) s =
      .next { s with
        rspStatus := 0, rspR0 := msbOf (tuning s.params.clockHz hz.toNat),
        rspR1 := lsbOf (tuning s.params.clockHz hz.toNat), rspLen := 2 })

/-- 40_dds_codec.md R117: FREQ_LOAD. Both words are always attempted, the LSB half first; a `Hang` on either leaves
every register as it was. -/
def Obligations.FreqLoadRule : Prop :=
  ∀ (hz : BitVec 24) (s : State), s.run = .idle →
    (8000000 < hz.toNat → exec (.freqLoad hz) s =
      .next { s with rspStatus := 3, rspR0 := 0, rspR1 := 0, rspLen := 0 }) ∧
    (hz.toNat ≤ 8000000 →
      (∀ o1 o2, (drawAt s 0).outcome = outcomeOf o1 → (drawAt s 1).outcome = outcomeOf o2 →
        exec (.freqLoad hz) s = .next { afterEvents [.aWord (lsbOf (tuning s.params.clockHz hz.toNat)) (some o1),
            .aWord (msbOf (tuning s.params.clockHz hz.toNat)) (some o2)] s with
          errcnt := (s.errcnt + (failed o1 + failed o2)) % 2 ^ s.params.errcntWidth
          rspStatus := if o1 = .ok ∧ o2 = .ok then 0 else 1
          rspR0 := msbOf (tuning s.params.clockHz hz.toNat)
          rspR1 := lsbOf (tuning s.params.clockHz hz.toNat)
          rspLen := 2 }) ∧
      ((drawAt s 0).outcome = .hang → exec (.freqLoad hz) s = .next
        { afterEvents [.aWord (lsbOf (tuning s.params.clockHz hz.toNat)) none] s with run := .hung }) ∧
      (∀ o1, (drawAt s 0).outcome = outcomeOf o1 → (drawAt s 1).outcome = .hang → exec (.freqLoad hz) s = .next
        { afterEvents [.aWord (lsbOf (tuning s.params.clockHz hz.toNat)) (some o1),
            .aWord (msbOf (tuning s.params.clockHz hz.toNat)) none] s with run := .hung }))

/-- 40_dds_codec.md R118: PHASE_ENCODE. -/
def Obligations.PhaseEncodeRule : Prop :=
  ∀ (deg : BitVec 16) (s : State), s.run = .idle →
    (360 < deg.toNat → exec (.phaseEncode deg) s =
      .next { s with rspStatus := 3, rspR0 := 0, rspR1 := 0, rspLen := 0 }) ∧
    (deg.toNat ≤ 360 → exec (.phaseEncode deg) s =
      .next { s with rspStatus := 0, rspR0 := phaseOf deg.toNat, rspR1 := 0, rspLen := 1 })

/-- 40_dds_codec.md R119: PHASE_LOAD. -/
def Obligations.PhaseLoadRule : Prop :=
  ∀ (deg : BitVec 16) (s : State), s.run = .idle →
    (360 < deg.toNat → exec (.phaseLoad deg) s =
      .next { s with rspStatus := 3, rspR0 := 0, rspR1 := 0, rspLen := 0 }) ∧
    (deg.toNat ≤ 360 →
      ((drawAt s 0).outcome = .ok → exec (.phaseLoad deg) s =
        .next { afterEvents [.aWord (phaseOf deg.toNat) (some .ok)] s with
          rspStatus := 0, rspR0 := phaseOf deg.toNat, rspR1 := 0, rspLen := 1 }) ∧
      ((drawAt s 0).outcome = .fail → exec (.phaseLoad deg) s =
        .next { afterEvents [.aWord (phaseOf deg.toNat) (some .fail)] s with
          errcnt := (s.errcnt + 1) % 2 ^ s.params.errcntWidth
          rspStatus := 1, rspR0 := phaseOf deg.toNat, rspR1 := 0, rspLen := 1 }) ∧
      ((drawAt s 0).outcome = .hang → exec (.phaseLoad deg) s =
        .next { afterEvents [.aWord (phaseOf deg.toNat) none] s with run := .hung }))

/-- 40_dds_codec.md R110, R111 and 30_encoding.md R88 (and the source's S1): the tuning word is the rounded quotient,
half up, in 28 bits; its two words carry the tag `01` and a 14-bit half each; joining them gives it back exactly. -/
def Obligations.FreqWordsJoinToTuningWord : Prop :=
  ∀ clockHz hz : Nat,
    (tuningWord clockHz hz).toNat = tuning clockHz hz ∧
    lsbWord (tuningWord clockHz hz) = lsbOf (tuning clockHz hz) ∧
    msbWord (tuningWord clockHz hz) = msbOf (tuning clockHz hz) ∧
    (joinFreqWords (msbOf (tuning clockHz hz)) (lsbOf (tuning clockHz hz))).toNat = tuning clockHz hz ∧
    ddsTarget (msbOf (tuning clockHz hz)) = .freq0 ∧ ddsTarget (lsbOf (tuning clockHz hz)) = .freq0

/-- 40_dds_codec.md R113, R114 (and the source's S2): the phase word is `0xC000` plus the rounded 12-bit phase value; its
top three bits are `110`, bit 12 is 0, and it selects PHASE0; no phase falls on an exact half; phases a whole turn apart
have the same word. -/
def Obligations.PhaseWordShape : Prop :=
  ∀ deg : Nat, phaseWord deg = phaseOf deg ∧ (phaseWord deg).toNat / 2 ^ 12 = 0b1100 ∧
    ddsTarget (phaseWord deg) = .phase0 ∧ deg * 4096 % 360 ≠ 180 ∧ phaseWord (deg + 360) = phaseWord deg

/-! ## CRM -/

/-- 41_control_register.md R131: CTRL_GET. -/
def Obligations.CtrlGetRule : Prop :=
  ∀ s : State, s.run = .idle → exec .ctrlGet s =
    .next { s with rspStatus := 0, rspR0 := s.ctrl, rspR1 := 0, rspLen := 1 }

/-- 41_control_register.md R132: CTRL_SYNC. -/
def Obligations.CtrlSyncRule : Prop :=
  ∀ s : State, s.run = .idle →
    ((drawAt s 0).outcome = .ok → exec .ctrlSync s = .next { afterEvents [.aWord s.ctrl (some .ok)] s with
      rspStatus := 0, rspR0 := s.ctrl, rspR1 := 0, rspLen := 1 }) ∧
    ((drawAt s 0).outcome = .fail → exec .ctrlSync s = .next { afterEvents [.aWord s.ctrl (some .fail)] s with
      errcnt := (s.errcnt + 1) % 2 ^ s.params.errcntWidth
      rspStatus := 1, rspR0 := s.ctrl, rspR1 := 0, rspLen := 1 }) ∧
    ((drawAt s 0).outcome = .hang → exec .ctrlSync s =
      .next { afterEvents [.aWord s.ctrl none] s with run := .hung })

/-- 41_control_register.md R133: SET_WAVEFORM. `n` is the image with the waveform fields of the kind. -/
def Obligations.SetWaveformRule : Prop :=
  ∀ (wf : BitVec 3) (s : State), s.run = .idle →
    (4 ≤ wf.toNat → exec (.setWaveform wf) s = .next { s with
      errcnt := (s.errcnt + 1) % 2 ^ s.params.errcntWidth
      rspStatus := 1, rspR0 := 0, rspR1 := 0, rspLen := 0 }) ∧
    ∀ bits n : Half, (wf.toNat, bits) ∈ [(0, 0x0000#16), (1, 0x0002), (2, 0x0028), (3, 0x0020)] →
      n = (s.ctrl &&& 0xFFD5) ||| bits →
      ((drawAt s 0).outcome = .ok → exec (.setWaveform wf) s = .next { afterEvents [.aWord n (some .ok)] s with
        ctrl := n, rspStatus := 0, rspR0 := n, rspR1 := 0, rspLen := 1 }) ∧
      ((drawAt s 0).outcome = .fail → exec (.setWaveform wf) s = .next { afterEvents [.aWord n (some .fail)] s with
        errcnt := (s.errcnt + 1) % 2 ^ s.params.errcntWidth
        rspStatus := 1, rspR0 := n, rspR1 := 0, rspLen := 1 }) ∧
      ((drawAt s 0).outcome = .hang → exec (.setWaveform wf) s =
        .next { afterEvents [.aWord n none] s with run := .hung })

/-- 41_control_register.md R134: SET_GATE. Gate on clears the gate bit, gate off sets it. -/
def Obligations.SetGateRule : Prop :=
  ∀ (on : BitVec 1) (s : State) (n : Half), s.run = .idle →
    n = (if on = 1 then s.ctrl &&& ~~~(gateValue s.params.gateBit) else s.ctrl ||| gateValue s.params.gateBit) →
    ((drawAt s 0).outcome = .ok → exec (.setGate on) s = .next { afterEvents [.aWord n (some .ok)] s with
      ctrl := n, rspStatus := 0, rspR0 := n, rspR1 := 0, rspLen := 1 }) ∧
    ((drawAt s 0).outcome = .fail → exec (.setGate on) s = .next { afterEvents [.aWord n (some .fail)] s with
      errcnt := (s.errcnt + 1) % 2 ^ s.params.errcntWidth
      rspStatus := 1, rspR0 := n, rspR1 := 0, rspLen := 1 }) ∧
    ((drawAt s 0).outcome = .hang → exec (.setGate on) s =
      .next { afterEvents [.aWord n none] s with run := .hung })

/-- 41_control_register.md R135: CTRL_RESET. -/
def Obligations.CtrlResetRule : Prop :=
  ∀ (s : State) (n : Half), s.run = .idle → n = 0x2000 + gateValue s.params.gateBit →
    ((drawAt s 0).outcome = .ok → exec .ctrlReset s = .next { afterEvents [.aWord n (some .ok)] s with
      ctrl := n, rspStatus := 0, rspR0 := n, rspR1 := 0, rspLen := 1 }) ∧
    ((drawAt s 0).outcome = .fail → exec .ctrlReset s = .next { afterEvents [.aWord n (some .fail)] s with
      errcnt := (s.errcnt + 1) % 2 ^ s.params.errcntWidth
      rspStatus := 1, rspR0 := n, rspR1 := 0, rspLen := 1 }) ∧
    ((drawAt s 0).outcome = .hang → exec .ctrlReset s =
      .next { afterEvents [.aWord n none] s with run := .hung })

/-- 10_state.md R24, R26, R28 and 41_control_register.md R133, R134: on a legal image, selecting a waveform sets exactly
that waveform and keeps the gate; setting the gate sets exactly it and keeps the waveform; both give legal images. -/
def Obligations.GateAndWaveformAreIndependent : Prop :=
  ∀ (g : GateBit) (c : Half) (k : Waveform) (on : BitVec 1), c ∈ legalImages g →
    withWave c k ∈ legalImages g ∧ waveformOfImage (withWave c k) = some k ∧ gateOn g (withWave c k) = gateOn g c ∧
    withGate g c on ∈ legalImages g ∧ gateOn g (withGate g c on) = (on == 1) ∧
    waveformOfImage (withGate g c on) = waveformOfImage c ∧ (waveformOfImage c).isSome

/-- 10_state.md R23, R25, 41_control_register.md R136: whatever a command does to a block with a legal `CTRL`, the tag
bits stay 00, B28 stays 1, and every other hardwired field stays 0. -/
def Obligations.HardwiredFieldsStay : Prop :=
  ∀ (i : Instr) (s t : State), CtrlLegal s → exec i s = .next t →
    (ctrlFieldsOf t.ctrl).tag = 0 ∧ (ctrlFieldsOf t.ctrl).b28 = true ∧ (ctrlFieldsOf t.ctrl).hlb = false ∧
    (ctrlFieldsOf t.ctrl).fselect = false ∧ (ctrlFieldsOf t.ctrl).pselect = false ∧
    (ctrlFieldsOf t.ctrl).reserved9 = false ∧ (ctrlFieldsOf t.ctrl).sleep1 = false ∧
    (ctrlFieldsOf t.ctrl).reserved4 = false ∧ (ctrlFieldsOf t.ctrl).reserved2 = false ∧
    (ctrlFieldsOf t.ctrl).reserved0 = false ∧
    (s.params.gateBit = .reset8 → (ctrlFieldsOf t.ctrl).sleep12 = false) ∧
    (s.params.gateBit = .sleep12 → (ctrlFieldsOf t.ctrl).reset = false)

/-- 41_control_register.md R130, 60_exceptions.md R214: `CTRL` changes only by a control word that drew `Ok` and whose
value it then has; a command that ends with a failure status never changes it. -/
def Obligations.CtrlChangesOnlyOnSuccess : Prop :=
  ∀ (i : Instr) (s t : State), exec i s = .next t →
    (t.ctrl ≠ s.ctrl → t.trace = s.trace ++ [.aWord t.ctrl (some .ok)] ∧ t.run = .idle ∧ t.rspStatus = 0) ∧
    (t.run = .idle → t.rspStatus ≠ 0 → t.ctrl = s.ctrl)

/-! ## GCS -/

/-- 42_gain_curve.md R154, R155, R156, R159: the solver's three branches, written out on integers, and the range of its
results. -/
def Obligations.SolverFollowsTheFormulas : Prop :=
  ∀ (potOhms mv : Nat), mv ≤ 4000 →
    (∀ k, k = .sine ∨ k = .triangle → mv ≤ 350 →
      solve potOhms mv k = (256, max 16 (min 256 ((7099 * mv + 69120) / potOhms)))) ∧
    (∀ k, k = .sine ∨ k = .triangle → 350 < mv → 3072000 - 1455 * (mv : Int) < 20480 →
      solve potOhms mv k = (0, 256)) ∧
    (∀ k, k = .sine ∨ k = .triangle → 350 < mv → 20480 ≤ 3072000 - 1455 * (mv : Int) →
      solve potOhms mv k = (min 256 ((3072000 - 1455 * mv) / potOhms), 256)) ∧
    (∀ k, k = .square ∨ k = .squareDiv2 →
      solve potOhms mv k = (256, min 256 ((590 * mv + 5952) / potOhms))) ∧
    (∀ k, (solve potOhms mv k).1 ≤ 256 ∧ (solve potOhms mv k).2 ≤ 256)

/-- 42_gain_curve.md R154 to R156: within each branch the curve is monotone in the target amplitude: more millivolts
never mean fewer attenuator taps (branches A and C) nor more feedback taps (branch B). -/
def Obligations.GainCurveIsMonotone : Prop :=
  ∀ (potOhms mv mv' : Nat) (k : Waveform), mv ≤ mv' →
    (k = .square ∨ k = .squareDiv2 ∨ mv' ≤ 350 → (solve potOhms mv k).2 ≤ (solve potOhms mv' k).2) ∧
    (k = .sine ∨ k = .triangle → 350 < mv → (solve potOhms mv' k).1 ≤ (solve potOhms mv k).1)

/-- 42_gain_curve.md R162: GAIN_SOLVE. The range check comes first (R161). -/
def Obligations.GainSolveRule : Prop :=
  ∀ (wf : BitVec 3) (mv : BitVec 16) (s : State), s.run = .idle →
    (4000 < mv.toNat → exec (.gainSolve wf mv) s =
      .next { s with rspStatus := 3, rspR0 := 0, rspR1 := 0, rspLen := 0 }) ∧
    (mv.toNat ≤ 4000 → 4 ≤ wf.toNat → exec (.gainSolve wf mv) s = .next { s with
      errcnt := (s.errcnt + 1) % 2 ^ s.params.errcntWidth
      rspStatus := 1, rspR0 := 0, rspR1 := 0, rspLen := 0 }) ∧
    (mv.toNat ≤ 4000 → ∀ k, (wf.toNat, k) ∈ [(0, Waveform.sine), (1, .triangle), (2, .square), (3, .squareDiv2)] →
      exec (.gainSolve wf mv) s = .next { s with
        rspStatus := 0
        rspR0 := BitVec.ofNat 16 (solve s.params.potOhms mv.toNat k).1
        rspR1 := BitVec.ofNat 16 (solve s.params.potOhms mv.toNat k).2
        rspLen := 2 })

/-- 42_gain_curve.md R163, R164: AMP_APPLY. Wiper0 gets r0 and then Wiper1 gets r1, both always attempted. -/
def Obligations.AmpApplyRule : Prop :=
  ∀ (wf : BitVec 3) (mv : BitVec 16) (s : State), s.run = .idle →
    (4000 < mv.toNat → exec (.ampApply wf mv) s =
      .next { s with rspStatus := 3, rspR0 := 0, rspR1 := 0, rspLen := 0 }) ∧
    (mv.toNat ≤ 4000 → 4 ≤ wf.toNat → exec (.ampApply wf mv) s = .next { s with
      errcnt := (s.errcnt + 1) % 2 ^ s.params.errcntWidth
      rspStatus := 1, rspR0 := 0, rspR1 := 0, rspLen := 0 }) ∧
    (mv.toNat ≤ 4000 → ∀ k r0 r1,
      (wf.toNat, k) ∈ [(0, Waveform.sine), (1, .triangle), (2, .square), (3, .squareDiv2)] →
      solve s.params.potOhms mv.toNat k = (r0, r1) →
      (∀ o0 o1, (drawAt s 0).outcome = outcomeOf o0 → (drawAt s 1).outcome = outcomeOf o1 →
        exec (.ampApply wf mv) s = .next { afterEvents [.bWrite (potPack 0x0 0b00 (BitVec.ofNat 16 r0)) (some o0),
            .bWrite (potPack 0x1 0b00 (BitVec.ofNat 16 r1)) (some o1)] s with
          errcnt := (s.errcnt + (failed o0 + failed o1)) % 2 ^ s.params.errcntWidth
          rspStatus := if o0 = .ok ∧ o1 = .ok then 0 else 1
          rspR0 := BitVec.ofNat 16 r0
          rspR1 := BitVec.ofNat 16 r1
          rspLen := 2 }) ∧
      ((drawAt s 0).outcome = .hang → exec (.ampApply wf mv) s = .next
        { afterEvents [.bWrite (potPack 0x0 0b00 (BitVec.ofNat 16 r0)) none] s with run := .hung }) ∧
      (∀ o0, (drawAt s 0).outcome = outcomeOf o0 → (drawAt s 1).outcome = .hang →
        exec (.ampApply wf mv) s = .next
          { afterEvents [.bWrite (potPack 0x0 0b00 (BitVec.ofNat 16 r0)) (some o0),
            .bWrite (potPack 0x1 0b00 (BitVec.ofNat 16 r1)) none] s with run := .hung }))

/-! ## PPK -/

/-- 43_pot_protocol.md R182, R183: the bytes of a valid triple, and how many there are. -/
def Obligations.PotPackLayout : Prop :=
  ∀ (a : BitVec 4) (c : BitVec 2) (d : BitVec 16), d.toNat ≤ 256 →
    (d = 0 → potPack a c d = [BitVec.ofNat 8 (a.toNat * 16 + c.toNat * 4)]) ∧
    (d ≠ 0 → potPack a c d =
      [BitVec.ofNat 8 (a.toNat * 16 + c.toNat * 4 + d.toNat / 256), BitVec.ofNat 8 (d.toNat % 256)])

/-- 30_encoding.md R91: the packing drops no bit: two valid triples with the same bytes are the same triple. -/
def Obligations.PotPackInjective : Prop :=
  ∀ (a a' : BitVec 4) (c c' : BitVec 2) (d d' : BitVec 16), d.toNat ≤ 256 → d'.toNat ≤ 256 →
    potPack a c d = potPack a' c' d' → a = a' ∧ c = c' ∧ d = d'

/-- 43_pot_protocol.md R184: POT_PACK. -/
def Obligations.PotPackRule : Prop :=
  ∀ (a : BitVec 4) (c : BitVec 2) (d : BitVec 16) (s : State), s.run = .idle →
    (6 ≤ a.toNat ∨ 256 < d.toNat → exec (.potPack a c d) s =
      .next { s with rspStatus := 1, rspR0 := 0, rspR1 := 0, rspLen := 0 }) ∧
    (a.toNat ≤ 5 → d.toNat ≤ 256 → exec (.potPack a c d) s = .next { s with
      rspStatus := 0
      rspR0 := BitVec.ofNat 16 (a.toNat * 16 + c.toNat * 4 + d.toNat / 256)
      rspR1 := BitVec.ofNat 16 (d.toNat % 256)
      rspLen := if d = 0 then 1 else 2 })

/-- 43_pot_protocol.md R185: POT_WRITE. `bytes` is `pot_pack` of the triple. -/
def Obligations.PotWriteRule : Prop :=
  ∀ (a : BitVec 4) (c : BitVec 2) (d : BitVec 16) (s : State), s.run = .idle →
    (6 ≤ a.toNat ∨ 256 < d.toNat → exec (.potWrite a c d) s =
      .next { s with rspStatus := 1, rspR0 := 0, rspR1 := 0, rspLen := 0 }) ∧
    (a.toNat ≤ 5 → d.toNat ≤ 256 →
      ((drawAt s 0).outcome = .ok → exec (.potWrite a c d) s =
        .next { afterEvents [.bWrite (potPack a c d) (some .ok)] s with
          rspStatus := 0
          rspR0 := BitVec.ofNat 16 (a.toNat * 16 + c.toNat * 4 + d.toNat / 256)
          rspR1 := BitVec.ofNat 16 (d.toNat % 256)
          rspLen := if d = 0 then 1 else 2 }) ∧
      ((drawAt s 0).outcome = .fail → exec (.potWrite a c d) s =
        .next { afterEvents [.bWrite (potPack a c d) (some .fail)] s with
          errcnt := (s.errcnt + 1) % 2 ^ s.params.errcntWidth
          rspStatus := 1
          rspR0 := BitVec.ofNat 16 (a.toNat * 16 + c.toNat * 4 + d.toNat / 256)
          rspR1 := BitVec.ofNat 16 (d.toNat % 256)
          rspLen := if d = 0 then 1 else 2 }) ∧
      ((drawAt s 0).outcome = .hang → exec (.potWrite a c d) s =
        .next { afterEvents [.bWrite (potPack a c d) none] s with run := .hung }))

/-- 43_pot_protocol.md R186, R187: POT_READ. The arming byte is `(ADDR << 4) | 0x0C`; a failed arming write ends the
command without a read; the result is the raw 16 bits, first byte high. That the event of a completed read is recorded with
the two bytes it returned is the model's choice (log entry 7). -/
def Obligations.PotReadRule : Prop :=
  ∀ (a : BitVec 4) (s : State) (arming : Byte), s.run = .idle → arming = BitVec.ofNat 8 (a.toNat * 16 + 0x0C) →
    (6 ≤ a.toNat → exec (.potRead a) s =
      .next { s with rspStatus := 1, rspR0 := 0, rspR1 := 0, rspLen := 0 }) ∧
    (a.toNat ≤ 5 →
      ((drawAt s 0).outcome = .fail → exec (.potRead a) s =
        .next { afterEvents [.bWrite [arming] (some .fail)] s with
          errcnt := (s.errcnt + 1) % 2 ^ s.params.errcntWidth
          rspStatus := 1, rspR0 := 0, rspR1 := 0, rspLen := 0 }) ∧
      ((drawAt s 0).outcome = .hang → exec (.potRead a) s =
        .next { afterEvents [.bWrite [arming] none] s with run := .hung }) ∧
      ((drawAt s 0).outcome = .ok → (drawAt s 1).outcome = .ok → exec (.potRead a) s =
        .next { afterEvents [.bWrite [arming] (some .ok),
            .bRead (some (.ok (drawAt s 1).b0 (drawAt s 1).b1))] s with
          rspStatus := 0
          rspR0 := BitVec.ofNat 16 ((drawAt s 1).b0.toNat * 256 + (drawAt s 1).b1.toNat)
          rspR1 := 0
          rspLen := 1 }) ∧
      ((drawAt s 0).outcome = .ok → (drawAt s 1).outcome = .fail → exec (.potRead a) s =
        .next { afterEvents [.bWrite [arming] (some .ok), .bRead (some .fail)] s with
          errcnt := (s.errcnt + 1) % 2 ^ s.params.errcntWidth
          rspStatus := 1, rspR0 := 0, rspR1 := 0, rspLen := 0 }) ∧
      ((drawAt s 0).outcome = .ok → (drawAt s 1).outcome = .hang → exec (.potRead a) s =
        .next { afterEvents [.bWrite [arming] (some .ok), .bRead none] s with run := .hung }))

/-! ## ERR_GET and the error model -/

/-- 44_diagnostic.md R200: ERR_GET. A counter of at most 16 bits has a zero high half (30_encoding.md R92). -/
def Obligations.ErrGetRule : Prop :=
  ∀ s : State, s.run = .idle →
    exec .errGet s = .next { s with
      rspStatus := 0, rspR0 := BitVec.ofNat 16 s.errcnt, rspR1 := BitVec.ofNat 16 (s.errcnt / 65536), rspLen := 2 } ∧
    (ErrcntInWidth s → s.params.errcntWidth ≤ 16 → (BitVec.ofNat 16 (s.errcnt / 65536) : Half) = 0)

/-- 60_exceptions.md R213: `ERRCNT` increases by exactly the number of the command's bus events that drew `Fail`, and by
1 for a rejected unknown waveform code; nothing else of a command changes it, a hang least of all. -/
def Obligations.ErrorsAreCountedExactly : Prop :=
  ∀ (w : Word) (s t : State), ErrcntInWidth s → runCommand w s = .next t →
    ∃ es, t.trace = s.trace ++ es ∧
      (t.run = .hung → t.errcnt = s.errcnt) ∧
      (t.run = .idle →
        ((∃ i, decode w = .ok i ∧ ¬ outOfRange i ∧ unknownWaveform i) →
          es = [] ∧ t.errcnt = (s.errcnt + 1) % 2 ^ s.params.errcntWidth) ∧
        (¬ (∃ i, decode w = .ok i ∧ ¬ outOfRange i ∧ unknownWaveform i) →
          t.errcnt = (s.errcnt + failCount es) % 2 ^ s.params.errcntWidth))

/-- 60_exceptions.md R212, R211: the status of a command is that of the first check it fails, in the order decode, range,
waveform code or potentiometer triple, transport; the checks before the bus make no event. -/
def Obligations.FirstErrorWins : Prop :=
  ∀ (w : Word) (s t : State), runCommand w s = .next t →
    (∀ e, decode w = .error e → t.rspStatus = 4 ∧ t.trace = s.trace ∧ t.run = .idle) ∧
    (∀ i, decode w = .ok i →
      (outOfRange i → t.rspStatus = 3 ∧ t.trace = s.trace ∧ t.run = .idle) ∧
      (¬ outOfRange i → unknownWaveform i ∨ invalidTriple i →
        t.rspStatus = 1 ∧ t.trace = s.trace ∧ t.run = .idle) ∧
      (¬ outOfRange i → ¬ unknownWaveform i → ¬ invalidTriple i → t.run = .idle →
        ∃ es, t.trace = s.trace ++ es ∧ t.rspStatus = if failCount es = 0 then 0 else 1))

/-- 60_exceptions.md R217, 93_implementation_defined.md U26: a command that ends with `RUN = Hung` did so because its last
event drew `Hang`; that event has no outcome, the events before it have one; the command writes none of `CTRL`, `ERRCNT`
and the response registers, and no command completes after it. -/
def Obligations.HangWritesNoRegister : Prop :=
  ∀ (i : Instr) (s t : State), exec i s = .next t → t.run = .hung →
    t.ctrl = s.ctrl ∧ t.errcnt = s.errcnt ∧ t.rspStatus = s.rspStatus ∧ t.rspR0 = s.rspR0 ∧ t.rspR1 = s.rspR1 ∧
    t.rspLen = s.rspLen ∧ (∀ j u, exec j t ≠ .next u) ∧
    ∃ es e, t.trace = s.trace ++ es ++ [e] ∧ es.all eventCompleted = true ∧ eventCompleted e = false ∧
      (drawAt s es.length).outcome = .hang

/-- 60_exceptions.md R214: a command that fails before the bus writes zero results and leaves `CTRL` and `TRACE`; only an
unknown waveform changes `ERRCNT`. -/
def Obligations.EarlyFailureLeavesState : Prop :=
  ∀ (i : Instr) (s : State), s.run = .idle →
    (outOfRange i → exec i s = .next { s with rspStatus := 3, rspR0 := 0, rspR1 := 0, rspLen := 0 }) ∧
    (¬ outOfRange i → unknownWaveform i → exec i s = .next { s with
      errcnt := (s.errcnt + 1) % 2 ^ s.params.errcntWidth
      rspStatus := 1, rspR0 := 0, rspR1 := 0, rspLen := 0 }) ∧
    (invalidTriple i → exec i s = .next { s with rspStatus := 1, rspR0 := 0, rspR1 := 0, rspLen := 0 })

/-- 10_state.md R31 and 20_memory.md R58, R60, R63: a command only appends to the trace, at most two events, and each
event draws its own outcome. That the answers are a list and a counter in State, one used up for each event, that the
parameters are a State field and that the host's moves are a list no command touches are the model's choices (log entries 3,
1 and 2). -/
def Obligations.CommandsOnlyAppendToTrace : Prop :=
  ∀ (i : Instr) (s t : State), exec i s = .next t →
    ∃ es, es.length ≤ 2 ∧ t.trace = s.trace ++ es ∧ t.draws = s.draws.drop es.length ∧
      t.drawn = s.drawn + es.length ∧ t.params = s.params ∧ t.host = s.host

/-- 10_state.md R33: no command reads the response registers: two states that differ in them alone have the same outcome,
but for the response of a command that hangs. -/
def Obligations.NoCommandReadsTheResponse : Prop :=
  ∀ (i : Instr) (s t : State) (st : Byte) (r0 r1 : Half) (len : BitVec 2), exec i s = .next t →
    exec i { s with rspStatus := st, rspR0 := r0, rspR1 := r1, rspLen := len } =
      .next (if t.run = .idle then t else { t with rspStatus := st, rspR0 := r0, rspR1 := r1, rspLen := len })

/-- 20_memory.md R64 and 10_state.md R22, R31: what a command does is the same whatever the trace before it was: no
command reads the trace. -/
def Obligations.NoCommandReadsTheTrace : Prop :=
  ∀ (i : Instr) (s t : State) (earlier : List Event), exec i { s with trace := [] } = .next t →
    exec i { s with trace := earlier } = .next { t with trace := earlier ++ t.trace }

/-! ## Buses -/

/-- 20_memory.md R52, R55, R61: the bytes of each event in the order they are sent. The layout of bus B's address byte is
presumed (log entry 11; the spec calls it general knowledge and not normative, G9 and N4), and the bytes of an event that
drew `Fail` or `Hang` are the model's choice (log entry 15). -/
def Obligations.WireByteOrder : Prop :=
  ∀ (p : Params) (w : Half) (o : Option Completion) (bytes : List Byte) (b0 b1 : Byte),
    wireBytes p (.aWord w o) = [BitVec.ofNat 8 (w.toNat / 256), BitVec.ofNat 8 w.toNat] ∧
    wireBytes p (.bWrite bytes o) = BitVec.ofNat 8 (p.potBusAddr.toNat * 2) :: bytes ∧
    wireBytes p (.bRead (some (.ok b0 b1))) = [BitVec.ofNat 8 (p.potBusAddr.toNat * 2 + 1), b0, b1]

/-- 20_memory.md R66 and the source's S7: under the reference environment (log entry 8), writing `d` to a wiper register
and reading it back returns `d`, for every wiper register and every `d` up to 256. -/
def Obligations.PotRoundTripInReferenceEnvironment : Prop :=
  ∀ (a : BitVec 4) (d : BitVec 16) (s s1 s2 : State) (dev dev' : Device) (es : List Event),
    a.toNat ≤ 3 → d.toNat ≤ 256 → exec (.potWrite a 0b00 d) s = .next s1 → exec (.potRead a) s1 = .next s2 →
    s2.trace = s.trace ++ es → deviceRun dev es = some dev' →
    s2.run = .idle ∧ s2.rspStatus = 0 ∧ s2.rspR0 = d ∧ s2.rspR1 = 0 ∧ s2.rspLen = 1

/-- 20_memory.md R54, R66: under the reference environment, a FREQ_LOAD to a chip with B28 = 1 and no half pending sets
FREQ0 to the tuning word, leaves no half pending and touches no other register. -/
def Obligations.FreqLoadSetsFreq0InReferenceEnvironment : Prop :=
  ∀ (hz : BitVec 24) (s t : State) (dev dev' : Device) (es : List Event), hz.toNat ≤ 8000000 →
    dev.control.getLsbD 13 = true → dev.pendingHalf = false → exec (.freqLoad hz) s = .next t →
    t.trace = s.trace ++ es → deviceRun dev es = some dev' →
    t.rspStatus = 0 ∧ ∃ half, dev' =
      { dev with freq0 := BitVec.ofNat 28 (tuning s.params.clockHz hz.toNat), lsbHalf := half, pendingHalf := false }

/-- 41_control_register.md R130 and 20_memory.md R66: under the reference environment, after any command that sends a
control word the chip's control register equals `CTRL`, and B28 = 1 in it (70_reset_and_hazards.md R244). -/
def Obligations.ControlWordSynchronisesTheChip : Prop :=
  ∀ (i : Instr) (s t : State) (dev dev' : Device) (es : List Event), CtrlLegal s →
    (i = .ctrlSync ∨ i = .ctrlReset ∨ (∃ wf, i = .setWaveform wf ∧ wf.toNat ≤ 3) ∨ ∃ on, i = .setGate on) →
    exec i s = .next t → t.trace = s.trace ++ es → deviceRun dev es = some dev' →
    t.rspStatus = 0 ∧ dev'.control.toNat = t.ctrl.toNat ∧ dev'.control.getLsbD 13 = true

/-- 20_memory.md R54, R66 and 70_reset_and_hazards.md R244: under the reference environment (log entry 8), from power-on
one control word is enough for a FREQ_LOAD to land: whatever the chips' other registers held, after a control command with
`Success` and a FREQ_LOAD the chip's control register equals `CTRL`, FREQ0 is the tuning word and no half is pending. -/
def Obligations.FreqLoadFromPowerOnInReferenceEnvironment : Prop :=
  ∀ (i : Instr) (hz : BitVec 24) (s t u : State) (dev dev' : Device) (es : List Event), CtrlLegal s →
    (i = .ctrlSync ∨ i = .ctrlReset ∨ (∃ wf, i = .setWaveform wf ∧ wf.toNat ≤ 3) ∨ ∃ on, i = .setGate on) →
    hz.toNat ≤ 8000000 → exec i s = .next t → exec (.freqLoad hz) t = .next u → u.trace = s.trace ++ es →
    deviceRun (devicePowerOn dev) es = some dev' →
    t.rspStatus = 0 ∧ u.rspStatus = 0 ∧ dev'.control.toNat = u.ctrl.toNat ∧
    dev'.freq0 = BitVec.ofNat 28 (tuning s.params.clockHz hz.toNat) ∧ dev'.pendingHalf = false

/-! ## Invariants -/

/-- 10_state.md R28 to R31 and 60_exceptions.md R211 at reset: the state after reset is sound, whatever the
parameters. -/
def Obligations.ResetIsSound : Prop := (∀ p : Params, Sound (State.resetWith p)) ∧ Sound State.reset

/-- 10_state.md R28, R29, R30, R31, 20_memory.md R53, R59, R63, 43_pot_protocol.md R186, 60_exceptions.md R211: every
step keeps a sound state sound: `CTRL` legal, `ERRCNT` in its width, a written status and length, only the last event of
a hung block's trace uncompleted, only the words and bytes the block may emit, FREQ0 words in pairs, and every read armed
just before. -/
def Obligations.StepKeepsSound : Prop := ∀ s t : State, Sound s → step s = .next t → Sound t

/-- 60_exceptions.md R217, R223 and 10_state.md R30: only reset leaves a hung block. That no step changes the parameters
follows from the model holding them in State (log entry 1), and that a step takes one move of the host, or none when there
is none, is the model's choice (log entries 2 and 5). -/
def Obligations.OnlyResetLeavesHung : Prop :=
  ∀ s t : State, step s = .next t →
    t.params = s.params ∧ t.host = s.host.tail ∧
    (s.run = .hung → (∃ rest, s.host = .assertReset :: rest) ∨ ∃ w k rest, s.host = .presentThenReset w k :: rest)

/-! ## Assembler -/

/-- 30_encoding.md R93: the example lines of the assembly table and their words. -/
def Obligations.AssemblerExamples : Prop :=
  assembleLine "FREQ_ENCODE 1000" = .command 0x010003E8 ∧ assembleLine "FREQ_LOAD 0x3E8 ; 1 kHz" = .command 0x020003E8 ∧
  assembleLine "SET_WAVEFORM TRIANGLE" = .command 0x12000001 ∧ assembleLine "SET_GATE ON" = .command 0x13000001 ∧
  assembleLine "AMP_APPLY 1000, TRIANGLE" = .command 0x210103E8 ∧
  assembleLine "POT_PACK WIPER1, WR, 128" = .command 0x30100080 ∧
  assembleLine "POT_READ WIPER1" = .command 0x32100000 ∧ assembleLine "FREQ_LOAD 16777216" = .refused

/-- 30_encoding.md R94: each pseudo-instruction expands to its command, for every operand, and is refused exactly when
that command is. -/
def Obligations.PseudoInstructionsExpand : Prop :=
  instrOfSource ⟨"MUTE", []⟩ = some (.setGate 0) ∧ encode (.setGate 0) = 0x13000000 ∧
  instrOfSource ⟨"UNMUTE", []⟩ = some (.setGate 1) ∧ encode (.setGate 1) = 0x13000001 ∧
  ∀ a d : Nat,
    instrOfSource ⟨"POT_SET", [a, d]⟩ = instrOfSource ⟨"POT_WRITE", [a, 0, d]⟩ ∧
    instrOfSource ⟨"POT_INC", [a]⟩ = instrOfSource ⟨"POT_WRITE", [a, 1, 0]⟩ ∧
    instrOfSource ⟨"POT_DEC", [a]⟩ = instrOfSource ⟨"POT_WRITE", [a, 2, 0]⟩
end

