-- ==== Sys2Proof/Laws/State.lean ====
section
/-!
SUPPORT. What each update of the state does to each field: one lemma per field per update, true by `rfl`, so that no
proof unfolds a record update.
-/

namespace Sys2Proof.Machine

@[simp] theorem countErrors_params (n : Nat) (s : State) :
    (countErrors n s).params = s.params := rfl

@[simp] theorem countErrors_ctrl (n : Nat) (s : State) :
    (countErrors n s).ctrl = s.ctrl := rfl

@[simp] theorem countErrors_errcnt (n : Nat) (s : State) :
    (countErrors n s).errcnt = (s.errcnt + n) % 2 ^ s.params.errcntWidth := rfl

@[simp] theorem countErrors_rspStatus (n : Nat) (s : State) :
    (countErrors n s).rspStatus = s.rspStatus := rfl

@[simp] theorem countErrors_rspR0 (n : Nat) (s : State) :
    (countErrors n s).rspR0 = s.rspR0 := rfl

@[simp] theorem countErrors_rspR1 (n : Nat) (s : State) :
    (countErrors n s).rspR1 = s.rspR1 := rfl

@[simp] theorem countErrors_rspLen (n : Nat) (s : State) :
    (countErrors n s).rspLen = s.rspLen := rfl

@[simp] theorem countErrors_run (n : Nat) (s : State) :
    (countErrors n s).run = s.run := rfl

@[simp] theorem countErrors_trace (n : Nat) (s : State) :
    (countErrors n s).trace = s.trace := rfl

@[simp] theorem countErrors_host (n : Nat) (s : State) :
    (countErrors n s).host = s.host := rfl

@[simp] theorem countErrors_draws (n : Nat) (s : State) :
    (countErrors n s).draws = s.draws := rfl

@[simp] theorem countErrors_drawn (n : Nat) (s : State) :
    (countErrors n s).drawn = s.drawn := rfl

@[simp] theorem respond_params (st : Status) (r0 r1 : Half) (len : BitVec 2) (s : State) :
    (respond st r0 r1 len s).params = s.params := rfl

@[simp] theorem respond_ctrl (st : Status) (r0 r1 : Half) (len : BitVec 2) (s : State) :
    (respond st r0 r1 len s).ctrl = s.ctrl := rfl

@[simp] theorem respond_errcnt (st : Status) (r0 r1 : Half) (len : BitVec 2) (s : State) :
    (respond st r0 r1 len s).errcnt = s.errcnt := rfl

@[simp] theorem respond_rspStatus (st : Status) (r0 r1 : Half) (len : BitVec 2) (s : State) :
    (respond st r0 r1 len s).rspStatus = statusCode st := rfl

@[simp] theorem respond_rspR0 (st : Status) (r0 r1 : Half) (len : BitVec 2) (s : State) :
    (respond st r0 r1 len s).rspR0 = r0 := rfl

@[simp] theorem respond_rspR1 (st : Status) (r0 r1 : Half) (len : BitVec 2) (s : State) :
    (respond st r0 r1 len s).rspR1 = r1 := rfl

@[simp] theorem respond_rspLen (st : Status) (r0 r1 : Half) (len : BitVec 2) (s : State) :
    (respond st r0 r1 len s).rspLen = len := rfl

@[simp] theorem respond_run (st : Status) (r0 r1 : Half) (len : BitVec 2) (s : State) :
    (respond st r0 r1 len s).run = s.run := rfl

@[simp] theorem respond_trace (st : Status) (r0 r1 : Half) (len : BitVec 2) (s : State) :
    (respond st r0 r1 len s).trace = s.trace := rfl

@[simp] theorem respond_host (st : Status) (r0 r1 : Half) (len : BitVec 2) (s : State) :
    (respond st r0 r1 len s).host = s.host := rfl

@[simp] theorem respond_draws (st : Status) (r0 r1 : Half) (len : BitVec 2) (s : State) :
    (respond st r0 r1 len s).draws = s.draws := rfl

@[simp] theorem respond_drawn (st : Status) (r0 r1 : Half) (len : BitVec 2) (s : State) :
    (respond st r0 r1 len s).drawn = s.drawn := rfl

@[simp] theorem setCtrl_params (c : Half) (s : State) :
    (setCtrl c s).params = s.params := rfl

@[simp] theorem setCtrl_ctrl (c : Half) (s : State) :
    (setCtrl c s).ctrl = c := rfl

@[simp] theorem setCtrl_errcnt (c : Half) (s : State) :
    (setCtrl c s).errcnt = s.errcnt := rfl

@[simp] theorem setCtrl_rspStatus (c : Half) (s : State) :
    (setCtrl c s).rspStatus = s.rspStatus := rfl

@[simp] theorem setCtrl_rspR0 (c : Half) (s : State) :
    (setCtrl c s).rspR0 = s.rspR0 := rfl

@[simp] theorem setCtrl_rspR1 (c : Half) (s : State) :
    (setCtrl c s).rspR1 = s.rspR1 := rfl

@[simp] theorem setCtrl_rspLen (c : Half) (s : State) :
    (setCtrl c s).rspLen = s.rspLen := rfl

@[simp] theorem setCtrl_run (c : Half) (s : State) :
    (setCtrl c s).run = s.run := rfl

@[simp] theorem setCtrl_trace (c : Half) (s : State) :
    (setCtrl c s).trace = s.trace := rfl

@[simp] theorem setCtrl_host (c : Half) (s : State) :
    (setCtrl c s).host = s.host := rfl

@[simp] theorem setCtrl_draws (c : Half) (s : State) :
    (setCtrl c s).draws = s.draws := rfl

@[simp] theorem setCtrl_drawn (c : Half) (s : State) :
    (setCtrl c s).drawn = s.drawn := rfl

@[simp] theorem record_params (e : Event) (s : State) :
    (record e s).params = s.params := rfl

@[simp] theorem record_ctrl (e : Event) (s : State) :
    (record e s).ctrl = s.ctrl := rfl

@[simp] theorem record_errcnt (e : Event) (s : State) :
    (record e s).errcnt = s.errcnt := rfl

@[simp] theorem record_rspStatus (e : Event) (s : State) :
    (record e s).rspStatus = s.rspStatus := rfl

@[simp] theorem record_rspR0 (e : Event) (s : State) :
    (record e s).rspR0 = s.rspR0 := rfl

@[simp] theorem record_rspR1 (e : Event) (s : State) :
    (record e s).rspR1 = s.rspR1 := rfl

@[simp] theorem record_rspLen (e : Event) (s : State) :
    (record e s).rspLen = s.rspLen := rfl

@[simp] theorem record_run (e : Event) (s : State) :
    (record e s).run = s.run := rfl

@[simp] theorem record_trace (e : Event) (s : State) :
    (record e s).trace = s.trace ++ [e] := rfl

@[simp] theorem record_host (e : Event) (s : State) :
    (record e s).host = s.host := rfl

@[simp] theorem record_draws (e : Event) (s : State) :
    (record e s).draws = s.draws.tail := rfl

@[simp] theorem record_drawn (e : Event) (s : State) :
    (record e s).drawn = s.drawn + 1 := rfl

@[simp] theorem hang_params (s : State) :
    (hang s).params = s.params := rfl

@[simp] theorem hang_ctrl (s : State) :
    (hang s).ctrl = s.ctrl := rfl

@[simp] theorem hang_errcnt (s : State) :
    (hang s).errcnt = s.errcnt := rfl

@[simp] theorem hang_rspStatus (s : State) :
    (hang s).rspStatus = s.rspStatus := rfl

@[simp] theorem hang_rspR0 (s : State) :
    (hang s).rspR0 = s.rspR0 := rfl

@[simp] theorem hang_rspR1 (s : State) :
    (hang s).rspR1 = s.rspR1 := rfl

@[simp] theorem hang_rspLen (s : State) :
    (hang s).rspLen = s.rspLen := rfl

@[simp] theorem hang_run (s : State) :
    (hang s).run = .hung := rfl

@[simp] theorem hang_trace (s : State) :
    (hang s).trace = s.trace := rfl

@[simp] theorem hang_host (s : State) :
    (hang s).host = s.host := rfl

@[simp] theorem hang_draws (s : State) :
    (hang s).draws = s.draws := rfl

@[simp] theorem hang_drawn (s : State) :
    (hang s).drawn = s.drawn := rfl

@[simp] theorem presentWord_params (w : Word) (s : State) :
    (presentWord w s).params = s.params := rfl

@[simp] theorem presentWord_ctrl (w : Word) (s : State) :
    (presentWord w s).ctrl = s.ctrl := rfl

@[simp] theorem presentWord_errcnt (w : Word) (s : State) :
    (presentWord w s).errcnt = s.errcnt := rfl

@[simp] theorem presentWord_rspStatus (w : Word) (s : State) :
    (presentWord w s).rspStatus = s.rspStatus := rfl

@[simp] theorem presentWord_rspR0 (w : Word) (s : State) :
    (presentWord w s).rspR0 = s.rspR0 := rfl

@[simp] theorem presentWord_rspR1 (w : Word) (s : State) :
    (presentWord w s).rspR1 = s.rspR1 := rfl

@[simp] theorem presentWord_rspLen (w : Word) (s : State) :
    (presentWord w s).rspLen = s.rspLen := rfl

@[simp] theorem presentWord_run (w : Word) (s : State) :
    (presentWord w s).run = s.run := rfl

@[simp] theorem presentWord_trace (w : Word) (s : State) :
    (presentWord w s).trace = s.trace := rfl

@[simp] theorem presentWord_host (w : Word) (s : State) :
    (presentWord w s).host = .present w :: s.host := rfl

@[simp] theorem presentWord_draws (w : Word) (s : State) :
    (presentWord w s).draws = s.draws := rfl

@[simp] theorem presentWord_drawn (w : Word) (s : State) :
    (presentWord w s).drawn = s.drawn := rfl

@[simp] theorem resetBlock_params (s : State) :
    (resetBlock s).params = s.params := rfl

@[simp] theorem resetBlock_ctrl (s : State) :
    (resetBlock s).ctrl = ctrlResetValue s.params.gateBit := rfl

@[simp] theorem resetBlock_errcnt (s : State) :
    (resetBlock s).errcnt = 0 := rfl

@[simp] theorem resetBlock_rspStatus (s : State) :
    (resetBlock s).rspStatus = 0 := rfl

@[simp] theorem resetBlock_rspR0 (s : State) :
    (resetBlock s).rspR0 = 0 := rfl

@[simp] theorem resetBlock_rspR1 (s : State) :
    (resetBlock s).rspR1 = 0 := rfl

@[simp] theorem resetBlock_rspLen (s : State) :
    (resetBlock s).rspLen = 0 := rfl

@[simp] theorem resetBlock_run (s : State) :
    (resetBlock s).run = .idle := rfl

@[simp] theorem resetBlock_trace (s : State) :
    (resetBlock s).trace = [] := rfl

@[simp] theorem resetBlock_host (s : State) :
    (resetBlock s).host = s.host := rfl

@[simp] theorem resetBlock_draws (s : State) :
    (resetBlock s).draws = s.draws := rfl

@[simp] theorem resetBlock_drawn (s : State) :
    (resetBlock s).drawn = s.drawn := rfl

end Sys2Proof.Machine
end

