-- ==== Sys2Proof/Laws/Ops.lean ====
section
/-!
SUPPORT. What each shared operation can do, said once: accepting a command, drawing an answer, the three bus
primitives, reset and the host's moves.
-/

namespace Sys2Proof.Machine

/-- An idle block runs the command. -/
theorem accept_idle {body : State → State} {s : State} (h : s.run = .idle) : accept body s = .next (body s) := by
  simp [accept, h]

/-- A hung block stops. -/
theorem accept_hung {body : State → State} {s : State} (h : s.run = .hung) : accept body s = .fault .hung := by
  simp [accept, h]

/-- A command completes or hangs in a next state exactly when the block was idle. -/
theorem accept_next_iff {body : State → State} {s t : State} :
    accept body s = .next t ↔ s.run = .idle ∧ body s = t := by
  cases h : s.run <;> simp [accept, h]

/-- Accepting a command never refuses. -/
theorem accept_not_refused {body : State → State} {s : State} {r : Refusal} : accept body s ≠ .refused r := by
  cases h : s.run <;> simp [accept, h]

/-- A completed primitive that drew `Ok` counts nothing. -/
@[simp] theorem countFailure_ok (s : State) : countFailure .ok s = s := rfl

/-- A completed primitive that drew `Fail` counts one error. -/
@[simp] theorem countFailure_fail (s : State) : countFailure .fail s = countErrors 1 s := rfl

/-- An event uses up one answer: the next primitive gets the answer after it. -/
@[simp] theorem drawAt_record (e : Event) (s : State) (k : Nat) : drawAt (record e s) k = drawAt s (k + 1) := by
  cases h : s.draws <;> simp [drawAt, h, Nat.add_assoc, Nat.add_comm 1 k]

/-- A bus-A word that draws an outcome other than `Hang` is recorded with it, and the command goes on. -/
theorem busASend_completed {w : Half} {rest : Completion → State → State} {s : State} {c : Completion}
    (h : (drawAt s 0).outcome = outcomeOf c) : busASend w rest s = rest c (record (.aWord w (some c)) s) := by
  cases c <;> simp [busASend, h, outcomeOf]

/-- A bus-A word that draws `Hang` ends the command. -/
theorem busASend_hang {w : Half} {rest : Completion → State → State} {s : State}
    (h : (drawAt s 0).outcome = .hang) : busASend w rest s = hang (record (.aWord w none) s) := by
  simp [busASend, h]

/-- All a bus-A word can do. -/
theorem busASend_cases (w : Half) (rest : Completion → State → State) (s : State) :
    (∃ c, (drawAt s 0).outcome = outcomeOf c ∧ busASend w rest s = rest c (record (.aWord w (some c)) s)) ∨
      ((drawAt s 0).outcome = .hang ∧ busASend w rest s = hang (record (.aWord w none) s)) := by
  cases h : (drawAt s 0).outcome with
  | ok => exact .inl ⟨.ok, rfl, busASend_completed h⟩
  | fail => exact .inl ⟨.fail, rfl, busASend_completed h⟩
  | hang => exact .inr ⟨rfl, busASend_hang h⟩

/-- A bus-B write that draws an outcome other than `Hang` is recorded with it, and the command goes on. -/
theorem busBWrite_completed {bytes : List Byte} {rest : Completion → State → State} {s : State} {c : Completion}
    (h : (drawAt s 0).outcome = outcomeOf c) :
    busBWrite bytes rest s = rest c (record (.bWrite bytes (some c)) s) := by
  cases c <;> simp [busBWrite, h, outcomeOf]

/-- A bus-B write that draws `Hang` ends the command. -/
theorem busBWrite_hang {bytes : List Byte} {rest : Completion → State → State} {s : State}
    (h : (drawAt s 0).outcome = .hang) : busBWrite bytes rest s = hang (record (.bWrite bytes none) s) := by
  simp [busBWrite, h]

/-- All a bus-B write can do. -/
theorem busBWrite_cases (bytes : List Byte) (rest : Completion → State → State) (s : State) :
    (∃ c, (drawAt s 0).outcome = outcomeOf c ∧ busBWrite bytes rest s = rest c (record (.bWrite bytes (some c)) s)) ∨
      ((drawAt s 0).outcome = .hang ∧ busBWrite bytes rest s = hang (record (.bWrite bytes none) s)) := by
  cases h : (drawAt s 0).outcome with
  | ok => exact .inl ⟨.ok, rfl, busBWrite_completed h⟩
  | fail => exact .inl ⟨.fail, rfl, busBWrite_completed h⟩
  | hang => exact .inr ⟨rfl, busBWrite_hang h⟩

/-- A read that draws `Ok` returns the bytes drawn with it. -/
theorem busBRead_ok {rest : ReadCompletion → State → State} {s : State} (h : (drawAt s 0).outcome = .ok) :
    busBRead rest s = rest (.ok (drawAt s 0).b0 (drawAt s 0).b1)
      (record (.bRead (some (.ok (drawAt s 0).b0 (drawAt s 0).b1))) s) := by
  simp [busBRead, h]

/-- A read that draws `Fail`. -/
theorem busBRead_fail {rest : ReadCompletion → State → State} {s : State} (h : (drawAt s 0).outcome = .fail) :
    busBRead rest s = rest .fail (record (.bRead (some .fail)) s) := by
  simp [busBRead, h]

/-- A read that draws `Hang` ends the command. -/
theorem busBRead_hang {rest : ReadCompletion → State → State} {s : State} (h : (drawAt s 0).outcome = .hang) :
    busBRead rest s = hang (record (.bRead none) s) := by
  simp [busBRead, h]

/-- An abandoned command leaves the block as any reset does; only which answers are used up depends on it. -/
theorem abandonCommand_eq (k : Nat) (ended : StepOutcome) (s : State) :
    ∃ n, n ≤ k ∧ abandonCommand k ended s =
      { resetBlock s with draws := s.draws.drop n, drawn := s.drawn + n } :=
  ⟨_, Nat.min_le_left k _, rfl⟩

/-- The host's next move, if it has one. -/
theorem takeMove_cons {s : State} {m : HostMove} {rest : List HostMove} (h : s.host = m :: rest) :
    takeMove s = some (m, { s with host := rest }) := by
  simp [takeMove, h]

/-- A host with nothing to do makes no move. -/
theorem takeMove_nil {s : State} (h : s.host = []) : takeMove s = none := by
  simp [takeMove, h]

/-- A presented word is fetched as it was presented. -/
theorem takeMove_presentWord (w : Word) (s : State) : takeMove (presentWord w s) = some (.present w, s) := rfl

end Sys2Proof.Machine
end

