-- ==== Sys2Proof/Laws/Commands.lean ====
section
/-!
SUPPORT. What each command can end in, said once per command: one inversion lemma for each meaning, in terms of the
shared operations, so that no later proof unfolds a meaning.
-/

namespace Sys2Proof.Machine

/-- FREQ_ENCODE answers or rejects (R116). -/
theorem execFreqEncode_next {hz : BitVec 24} {s t : State} (h : execFreqEncode hz s = .next t) :
    s.run = .idle ∧
      ((freqAdmitted hz = false ∧ t = reject .valueTooLarge s) ∨
        (freqAdmitted hz = true ∧ t = respond .success (msbWord (tuningWord s.params.clockHz hz.toNat))
          (lsbWord (tuningWord s.params.clockHz hz.toNat)) 2 s)) := by
  obtain ⟨hi, rfl⟩ := accept_next_iff.mp h
  cases hz' : freqAdmitted hz <;> simp [hi]

/-- FREQ_LOAD rejects, answers after both words, or hangs on one of them (R117). -/
theorem execFreqLoad_next {hz : BitVec 24} {s t : State} (h : execFreqLoad hz s = .next t) :
    s.run = .idle ∧
      ((freqAdmitted hz = false ∧ t = reject .valueTooLarge s) ∨
        (freqAdmitted hz = true ∧ ∃ l m, l = lsbWord (tuningWord s.params.clockHz hz.toNat) ∧
          m = msbWord (tuningWord s.params.clockHz hz.toNat) ∧
          ((∃ o1 o2, (drawAt s 0).outcome = outcomeOf o1 ∧ (drawAt s 1).outcome = outcomeOf o2 ∧
              t = respond (transportStatus (failures o1 + failures o2)) m l 2
                (countErrors (failures o1 + failures o2)
                  (record (.aWord m (some o2)) (record (.aWord l (some o1)) s)))) ∨
            (∃ o1, (drawAt s 0).outcome = outcomeOf o1 ∧ (drawAt s 1).outcome = .hang ∧
              t = hang (record (.aWord m none) (record (.aWord l (some o1)) s))) ∨
            ((drawAt s 0).outcome = .hang ∧ t = hang (record (.aWord l none) s))))) := by
  obtain ⟨hi, rfl⟩ := accept_next_iff.mp h
  refine ⟨hi, ?_⟩
  cases hz' : freqAdmitted hz with
  | false => exact .inl ⟨rfl, by simp⟩
  | true =>
    refine .inr ⟨rfl, _, _, rfl, rfl, ?_⟩
    simp only [if_true]
    rcases busASend_cases (lsbWord (tuningWord s.params.clockHz hz.toNat)) _ s with ⟨o1, h1, e1⟩ | ⟨h1, e1⟩
    · rcases busASend_cases (msbWord (tuningWord s.params.clockHz hz.toNat)) _
        (record (.aWord (lsbWord (tuningWord s.params.clockHz hz.toNat)) (some o1)) s) with ⟨o2, h2, e2⟩ | ⟨h2, e2⟩
      · exact .inl ⟨o1, o2, h1, by simpa using h2, e1.trans e2⟩
      · exact .inr (.inl ⟨o1, h1, by simpa using h2, e1.trans e2⟩)
    · exact .inr (.inr ⟨h1, e1⟩)

/-- PHASE_ENCODE answers or rejects (R118). -/
theorem execPhaseEncode_next {deg : BitVec 16} {s t : State} (h : execPhaseEncode deg s = .next t) :
    s.run = .idle ∧
      ((phaseAdmitted deg = false ∧ t = reject .valueTooLarge s) ∨
        (phaseAdmitted deg = true ∧ t = respond .success (phaseWord deg.toNat) 0 1 s)) := by
  obtain ⟨hi, rfl⟩ := accept_next_iff.mp h
  cases hd : phaseAdmitted deg <;> simp [hi]

/-- PHASE_LOAD rejects, answers after its word, or hangs on it (R119). -/
theorem execPhaseLoad_next {deg : BitVec 16} {s t : State} (h : execPhaseLoad deg s = .next t) :
    s.run = .idle ∧
      ((phaseAdmitted deg = false ∧ t = reject .valueTooLarge s) ∨
        (phaseAdmitted deg = true ∧
          ((∃ o, (drawAt s 0).outcome = outcomeOf o ∧
              t = respond (transportStatus (failures o)) (phaseWord deg.toNat) 0 1
                (countFailure o (record (.aWord (phaseWord deg.toNat) (some o)) s))) ∨
            ((drawAt s 0).outcome = .hang ∧ t = hang (record (.aWord (phaseWord deg.toNat) none) s))))) := by
  obtain ⟨hi, rfl⟩ := accept_next_iff.mp h
  refine ⟨hi, ?_⟩
  cases hd : phaseAdmitted deg with
  | false => exact .inl ⟨rfl, by simp⟩
  | true => exact .inr ⟨rfl, by simpa using busASend_cases (phaseWord deg.toNat) _ s⟩

/-- The commit step stores and answers, counts and answers, or hangs (R130). -/
theorem ctlCommit_cases (n : Half) (s : State) :
    ((drawAt s 0).outcome = .ok ∧
        ctlCommit n s = respond .success n 0 1 (setCtrl n (record (.aWord n (some .ok)) s))) ∨
      ((drawAt s 0).outcome = .fail ∧
        ctlCommit n s = respond .unknownError n 0 1 (countErrors 1 (record (.aWord n (some .fail)) s))) ∨
      ((drawAt s 0).outcome = .hang ∧ ctlCommit n s = hang (record (.aWord n none) s)) := by
  rcases busASend_cases n _ s with ⟨o, h, e⟩ | ⟨h, e⟩
  · cases o with
    | ok => exact .inl ⟨h, e⟩
    | fail => exact .inr (.inl ⟨h, e⟩)
  · exact .inr (.inr ⟨h, e⟩)

/-- CTRL_GET answers (R131). -/
theorem execCtrlGet_next {s t : State} (h : execCtrlGet s = .next t) :
    s.run = .idle ∧ t = respond .success s.ctrl 0 1 s := by
  obtain ⟨hi, rfl⟩ := accept_next_iff.mp h
  exact ⟨hi, rfl⟩

/-- CTRL_SYNC commits the image it has (R132). -/
theorem execCtrlSync_next {s t : State} (h : execCtrlSync s = .next t) :
    s.run = .idle ∧ t = ctlCommit s.ctrl s := by
  obtain ⟨hi, rfl⟩ := accept_next_iff.mp h
  exact ⟨hi, rfl⟩

/-- SET_WAVEFORM rejects an unknown code, or commits the image with the waveform (R133). -/
theorem execSetWaveform_next {wf : BitVec 3} {s t : State} (h : execSetWaveform wf s = .next t) :
    s.run = .idle ∧
      ((waveformOf wf = none ∧ t = rejectWaveform s) ∨
        ∃ k, waveformOf wf = some k ∧ t = ctlCommit (withWave s.ctrl k) s) := by
  obtain ⟨hi, rfl⟩ := accept_next_iff.mp h
  cases hk : waveformOf wf <;> simp [hi]

/-- SET_GATE commits the image with the gate bit (R134). -/
theorem execSetGate_next {on : BitVec 1} {s t : State} (h : execSetGate on s = .next t) :
    s.run = .idle ∧ t = ctlCommit (withGate s.params.gateBit s.ctrl on) s := by
  obtain ⟨hi, rfl⟩ := accept_next_iff.mp h
  exact ⟨hi, rfl⟩

/-- CTRL_RESET commits the reset image (R135). -/
theorem execCtrlReset_next {s t : State} (h : execCtrlReset s = .next t) :
    s.run = .idle ∧ t = ctlCommit (ctrlResetValue s.params.gateBit) s := by
  obtain ⟨hi, rfl⟩ := accept_next_iff.mp h
  exact ⟨hi, rfl⟩

/-- GAIN_SOLVE rejects the range, then the waveform, or answers (R162). -/
theorem execGainSolve_next {wf : BitVec 3} {mv : BitVec 16} {s t : State} (h : execGainSolve wf mv s = .next t) :
    s.run = .idle ∧
      ((ampAdmitted mv = false ∧ t = reject .valueTooLarge s) ∨
        (ampAdmitted mv = true ∧ waveformOf wf = none ∧ t = rejectWaveform s) ∨
        (ampAdmitted mv = true ∧ ∃ k, waveformOf wf = some k ∧
          t = respondTaps .success (solve s.params.potOhms mv.toNat k) s)) := by
  obtain ⟨hi, rfl⟩ := accept_next_iff.mp h
  cases hm : ampAdmitted mv <;> cases hk : waveformOf wf <;> simp [hi]

/-- AMP_APPLY rejects the range, then the waveform, answers after both writes, or hangs on one of them (R163). -/
theorem execAmpApply_next {wf : BitVec 3} {mv : BitVec 16} {s t : State} (h : execAmpApply wf mv s = .next t) :
    s.run = .idle ∧
      ((ampAdmitted mv = false ∧ t = reject .valueTooLarge s) ∨
        (ampAdmitted mv = true ∧ waveformOf wf = none ∧ t = rejectWaveform s) ∨
        (ampAdmitted mv = true ∧ ∃ k taps b0 b1, waveformOf wf = some k ∧
          taps = solve s.params.potOhms mv.toNat k ∧
          b0 = potPack wiper0Addr (potCommandCode .writeData) (BitVec.ofNat 16 taps.1) ∧
          b1 = potPack wiper1Addr (potCommandCode .writeData) (BitVec.ofNat 16 taps.2) ∧
          ((∃ o0 o1, (drawAt s 0).outcome = outcomeOf o0 ∧ (drawAt s 1).outcome = outcomeOf o1 ∧
              t = respondTaps (transportStatus (failures o0 + failures o1)) taps
                (countErrors (failures o0 + failures o1)
                  (record (.bWrite b1 (some o1)) (record (.bWrite b0 (some o0)) s)))) ∨
            (∃ o0, (drawAt s 0).outcome = outcomeOf o0 ∧ (drawAt s 1).outcome = .hang ∧
              t = hang (record (.bWrite b1 none) (record (.bWrite b0 (some o0)) s))) ∨
            ((drawAt s 0).outcome = .hang ∧ t = hang (record (.bWrite b0 none) s))))) := by
  obtain ⟨hi, rfl⟩ := accept_next_iff.mp h
  refine ⟨hi, ?_⟩
  cases hm : ampAdmitted mv with
  | false => exact .inl ⟨rfl, by simp⟩
  | true =>
    refine .inr ?_
    cases hk : waveformOf wf with
    | none => exact .inl ⟨rfl, rfl, by simp⟩
    | some k =>
      refine .inr ⟨rfl, k, _, _, _, rfl, rfl, rfl, rfl, ?_⟩
      simp only [if_true, tapWrite]
      rcases busBWrite_cases (potPack wiper0Addr (potCommandCode .writeData)
        (BitVec.ofNat 16 (solve s.params.potOhms mv.toNat k).1)) _ s with ⟨o0, h0, e0⟩ | ⟨h0, e0⟩
      · rcases busBWrite_cases (potPack wiper1Addr (potCommandCode .writeData)
          (BitVec.ofNat 16 (solve s.params.potOhms mv.toNat k).2)) _ (record (.bWrite (potPack wiper0Addr
            (potCommandCode .writeData) (BitVec.ofNat 16 (solve s.params.potOhms mv.toNat k).1)) (some o0)) s)
          with ⟨o1, h1, e1⟩ | ⟨h1, e1⟩
        · exact .inl ⟨o0, o1, h0, by simpa using h1, e0.trans e1⟩
        · exact .inr (.inl ⟨o0, h0, by simpa using h1, e0.trans e1⟩)
      · exact .inr (.inr ⟨h0, e0⟩)

/-- POT_PACK rejects an invalid triple or answers (R184). -/
theorem execPotPack_next {a : BitVec 4} {c : BitVec 2} {d : BitVec 16} {s t : State}
    (h : execPotPack a c d s = .next t) :
    s.run = .idle ∧
      ((potValid a c d = false ∧ t = reject .unknownError s) ∨
        (potValid a c d = true ∧ t = respondBytes .success (potPack a c d) s)) := by
  obtain ⟨hi, rfl⟩ := accept_next_iff.mp h
  cases hv : potValid a c d <;> simp [hi]

/-- POT_WRITE rejects an invalid triple, answers after its write, or hangs on it (R185). -/
theorem execPotWrite_next {a : BitVec 4} {c : BitVec 2} {d : BitVec 16} {s t : State}
    (h : execPotWrite a c d s = .next t) :
    s.run = .idle ∧
      ((potValid a c d = false ∧ t = reject .unknownError s) ∨
        (potValid a c d = true ∧
          ((∃ o, (drawAt s 0).outcome = outcomeOf o ∧
              t = respondBytes (transportStatus (failures o)) (potPack a c d)
                (countFailure o (record (.bWrite (potPack a c d) (some o)) s))) ∨
            ((drawAt s 0).outcome = .hang ∧ t = hang (record (.bWrite (potPack a c d) none) s))))) := by
  obtain ⟨hi, rfl⟩ := accept_next_iff.mp h
  refine ⟨hi, ?_⟩
  cases hv : potValid a c d with
  | false => exact .inl ⟨rfl, by simp⟩
  | true => exact .inr ⟨rfl, by simpa using busBWrite_cases (potPack a c d) _ s⟩

/-- POT_READ rejects an unknown address, fails or hangs on the arming write, or fails, hangs or answers on the read
(R186). -/
theorem execPotRead_next {a : BitVec 4} {s t : State} (h : execPotRead a s = .next t) :
    s.run = .idle ∧
      ((potAddrKnown a = false ∧ t = reject .unknownError s) ∨
        (potAddrKnown a = true ∧ ∃ arming, arming = potPack a (potCommandCode .readData) 0 ∧
          (((drawAt s 0).outcome = .hang ∧ t = hang (record (.bWrite arming none) s)) ∨
            ((drawAt s 0).outcome = .fail ∧ t = potReadFailed (record (.bWrite arming (some .fail)) s)) ∨
            ((drawAt s 0).outcome = .ok ∧
              (((drawAt s 1).outcome = .hang ∧
                  t = hang (record (.bRead none) (record (.bWrite arming (some .ok)) s))) ∨
                ((drawAt s 1).outcome = .fail ∧
                  t = potReadFailed (record (.bRead (some .fail)) (record (.bWrite arming (some .ok)) s))) ∨
                ((drawAt s 1).outcome = .ok ∧ ∃ b0 b1, b0 = (drawAt s 1).b0 ∧ b1 = (drawAt s 1).b1 ∧
                  t = respond .success (readResult b0 b1) 0 1 (record (.bRead (some (.ok b0 b1)))
                    (record (.bWrite arming (some .ok)) s)))))))) := by
  obtain ⟨hi, rfl⟩ := accept_next_iff.mp h
  refine ⟨hi, ?_⟩
  cases ha : potAddrKnown a with
  | false => exact .inl ⟨rfl, by simp⟩
  | true =>
    refine .inr ⟨rfl, _, rfl, ?_⟩
    simp only [if_true]
    rcases busBWrite_cases (potPack a (potCommandCode .readData) 0) _ s with ⟨o1, h1, e1⟩ | ⟨h1, e1⟩
    · cases o1 with
      | fail => exact .inr (.inl ⟨h1, e1⟩)
      | ok =>
        refine .inr (.inr ⟨h1, ?_⟩)
        have hd := drawAt_record (.bWrite (potPack a (potCommandCode .readData) 0) (some .ok)) s 0
        cases h2 : (drawAt s 1).outcome with
        | hang => exact .inl ⟨rfl, e1.trans (busBRead_hang (by rw [hd, h2]))⟩
        | fail => exact .inr (.inl ⟨rfl, e1.trans (busBRead_fail (by rw [hd, h2]))⟩)
        | ok => exact .inr (.inr ⟨rfl, _, _, rfl, rfl, e1.trans (by rw [busBRead_ok (by rw [hd, h2]), hd])⟩)
    · exact .inl ⟨h1, e1⟩

/-- ERR_GET answers (R200). -/
theorem execErrGet_next {s t : State} (h : execErrGet s = .next t) :
    s.run = .idle ∧ t = respond .success ((BitVec.ofNat 32 s.errcnt).extractLsb' 0 16)
      ((BitVec.ofNat 32 s.errcnt).extractLsb' 16 16) 2 s := by
  obtain ⟨hi, rfl⟩ := accept_next_iff.mp h
  exact ⟨hi, rfl⟩

end Sys2Proof.Machine
end

