-- ==== Sys2Proof/Laws/PerInstr.lean ====
section
/-!
SUPPORT. For every command: its word carries the fixed bits of its row of the opcode table (30_encoding.md rules R81,
R84), every reserved bit 0.
-/

namespace Sys2Proof.Laws.TableRow

/-- The `mask` of the command's row of spec/opcode_table.json. -/
def rowMask : Instr → Word
  | .freqEncode _ => 0xFF000000
  | .freqLoad _ => 0xFF000000
  | .phaseEncode _ => 0xFFFF0000
  | .phaseLoad _ => 0xFFFF0000
  | .ctrlGet => 0xFFFFFFFF
  | .ctrlSync => 0xFFFFFFFF
  | .setWaveform _ => 0xFFFFFFF8
  | .setGate _ => 0xFFFFFFFE
  | .ctrlReset => 0xFFFFFFFF
  | .gainSolve _ _ => 0xFFF80000
  | .ampApply _ _ => 0xFFF80000
  | .potPack _ _ _ => 0xFF030000
  | .potWrite _ _ _ => 0xFF030000
  | .potRead _ => 0xFF0FFFFF
  | .errGet => 0xFFFFFFFF

/-- The `match` of the command's row of spec/opcode_table.json. -/
def rowMatch : Instr → Word
  | .freqEncode _ => 0x01000000
  | .freqLoad _ => 0x02000000
  | .phaseEncode _ => 0x03000000
  | .phaseLoad _ => 0x04000000
  | .ctrlGet => 0x10000000
  | .ctrlSync => 0x11000000
  | .setWaveform _ => 0x12000000
  | .setGate _ => 0x13000000
  | .ctrlReset => 0x14000000
  | .gainSolve _ _ => 0x20000000
  | .ampApply _ _ => 0x21000000
  | .potPack _ _ _ => 0x30000000
  | .potWrite _ _ _ => 0x31000000
  | .potRead _ => 0x32000000
  | .errGet => 0x40000000

/-- The command's word matches its row. -/
def Statement (i : Instr) : Prop := encode i &&& rowMask i = rowMatch i

/-- Two 32-bit words are equal when their bits are. -/
theorem word_ext {v w : Word} (h : ∀ i : Fin 32, v.getLsbD i = w.getLsbD i) : v = w :=
  BitVec.eq_of_getLsbD_eq fun i hi => h ⟨i, hi⟩

theorem freqEncode (hz : BitVec 24) : Statement (.freqEncode hz) := by
  apply word_ext; intro i; fin_cases i <;> simp [encode, rowMask, rowMatch]

theorem freqLoad (hz : BitVec 24) : Statement (.freqLoad hz) := by
  apply word_ext; intro i; fin_cases i <;> simp [encode, rowMask, rowMatch]

theorem phaseEncode (deg : BitVec 16) : Statement (.phaseEncode deg) := by
  apply word_ext; intro i; fin_cases i <;> simp [encode, rowMask, rowMatch]

theorem phaseLoad (deg : BitVec 16) : Statement (.phaseLoad deg) := by
  apply word_ext; intro i; fin_cases i <;> simp [encode, rowMask, rowMatch]

theorem ctrlGet : Statement .ctrlGet := by
  simp [Statement, encode, rowMask, rowMatch]

theorem ctrlSync : Statement .ctrlSync := by
  simp [Statement, encode, rowMask, rowMatch]

theorem setWaveform (wf : BitVec 3) : Statement (.setWaveform wf) := by
  apply word_ext; intro i; fin_cases i <;> simp [encode, rowMask, rowMatch]

theorem setGate (on : BitVec 1) : Statement (.setGate on) := by
  apply word_ext; intro i; fin_cases i <;> simp [encode, rowMask, rowMatch]

theorem ctrlReset : Statement .ctrlReset := by
  simp [Statement, encode, rowMask, rowMatch]

theorem gainSolve (wf : BitVec 3) (mv : BitVec 16) : Statement (.gainSolve wf mv) := by
  apply word_ext; intro i; fin_cases i <;> simp [encode, rowMask, rowMatch]

theorem ampApply (wf : BitVec 3) (mv : BitVec 16) : Statement (.ampApply wf mv) := by
  apply word_ext; intro i; fin_cases i <;> simp [encode, rowMask, rowMatch]

theorem potPack (addr : BitVec 4) (cmd : BitVec 2) (data : BitVec 16) : Statement (.potPack addr cmd data) := by
  apply word_ext; intro i; fin_cases i <;> simp [encode, rowMask, rowMatch]

theorem potWrite (addr : BitVec 4) (cmd : BitVec 2) (data : BitVec 16) : Statement (.potWrite addr cmd data) := by
  apply word_ext; intro i; fin_cases i <;> simp [encode, rowMask, rowMatch]

theorem potRead (addr : BitVec 4) : Statement (.potRead addr) := by
  apply word_ext; intro i; fin_cases i <;> simp [encode, rowMask, rowMatch]

theorem errGet : Statement .errGet := by
  simp [Statement, encode, rowMask, rowMatch]

end Sys2Proof.Laws.TableRow
end

