-- ==== Sys2Proof/Laws/RefEnv.lean ====
section
/-!
SUPPORT. The reference environment: power-on register by register, and lists of events cut in two.
-/

namespace Sys2Proof.Machine

@[simp] theorem devicePowerOn_pendingHalf (d : Device) : (devicePowerOn d).pendingHalf = false := rfl
@[simp] theorem devicePowerOn_control (d : Device) : (devicePowerOn d).control = d.control := rfl
@[simp] theorem devicePowerOn_freq0 (d : Device) : (devicePowerOn d).freq0 = d.freq0 := rfl
@[simp] theorem devicePowerOn_lsbHalf (d : Device) : (devicePowerOn d).lsbHalf = d.lsbHalf := rfl
@[simp] theorem devicePowerOn_phase0 (d : Device) : (devicePowerOn d).phase0 = d.phase0 := rfl
@[simp] theorem devicePowerOn_wiper0 (d : Device) : (devicePowerOn d).wiper0 = d.wiper0 := rfl
@[simp] theorem devicePowerOn_wiper1 (d : Device) : (devicePowerOn d).wiper1 = d.wiper1 := rfl
@[simp] theorem devicePowerOn_nonVolatileWiper0 (d : Device) :
    (devicePowerOn d).nonVolatileWiper0 = d.nonVolatileWiper0 := rfl
@[simp] theorem devicePowerOn_nonVolatileWiper1 (d : Device) :
    (devicePowerOn d).nonVolatileWiper1 = d.nonVolatileWiper1 := rfl
@[simp] theorem devicePowerOn_readSelect (d : Device) : (devicePowerOn d).readSelect = d.readSelect := rfl

/-- No event leaves the device as it is. -/
@[simp] theorem deviceRun_nil (d : Device) : deviceRun d [] = some d := rfl

/-- The first event, then the others. -/
theorem deviceRun_cons (d : Device) (e : Event) (es : List Event) :
    deviceRun d (e :: es) = (deviceEvent d e).bind fun d' => deviceRun d' es := rfl

/-- Events after events: the device runs through the first list, then through the second. -/
theorem deviceRun_append (d : Device) (es fs : List Event) :
    deviceRun d (es ++ fs) = (deviceRun d es).bind fun d' => deviceRun d' fs := by
  induction es generalizing d with
  | nil => rfl
  | cons e es ih => cases h : deviceEvent d e <;> simp [deviceRun_cons, h, ih]

/-- A control word sets the chip's control register and nothing else. -/
theorem deviceEvent_control {d : Device} {w : Half} (h : ddsTarget w = .control) :
    deviceEvent d (.aWord w (some .ok)) = some { d with control := w.extractLsb' 0 14 } := by
  simp [deviceEvent, deviceWord, h]

/-- Two FREQ0 words to a chip with B28 = 1 and no half pending load the pair. -/
theorem deviceRun_freq_pair {d : Device} {l m : Half} (hl : ddsTarget l = .freq0) (hm : ddsTarget m = .freq0)
    (hb : d.control.getLsbD 13 = true) (hp : d.pendingHalf = false) :
    deviceRun d [.aWord l (some .ok), .aWord m (some .ok)] =
      some { d with
        freq0 := (m.extractLsb' 0 14).setWidth 28 <<< 14 ||| (l.extractLsb' 0 14).setWidth 28
        lsbHalf := l.extractLsb' 0 14
        pendingHalf := false } := by
  simp [deviceRun, deviceEvent, deviceWord, deviceFreqWord, hl, hm, hb, hp]

/-- Only an event that drew `Ok` is of the environment. -/
theorem deviceEvent_failed {d : Device} {w : Half} {bytes : List Byte} :
    deviceEvent d (.aWord w (some .fail)) = none ∧ deviceEvent d (.bWrite bytes (some .fail)) = none ∧
      deviceEvent d (.bRead (some .fail)) = none := by
  rcases bytes with _ | ⟨_, _ | ⟨_, _ | _⟩⟩ <;> simp [deviceEvent]

/-- An event that drew `Hang` is not of the environment. -/
theorem deviceEvent_hung {d : Device} {w : Half} {bytes : List Byte} :
    deviceEvent d (.aWord w none) = none ∧ deviceEvent d (.bWrite bytes none) = none ∧
      deviceEvent d (.bRead none) = none := by
  rcases bytes with _ | ⟨_, _ | ⟨_, _ | _⟩⟩ <;> simp [deviceEvent]

end Sys2Proof.Machine
end

