-- ==== Sys2Proof/Laws/Safety.lean ====
section
/-!
SUPPORT. The bus events of a command, in the terms the statements use.
-/

namespace Sys2Proof.Machine

/-- A command without bus events. -/
@[simp] theorem afterEvents_nil (s : State) : afterEvents [] s = s := by
  simp [afterEvents]

/-- One recorded event. -/
theorem record_eq_afterEvents (e : Event) (s : State) : record e s = afterEvents [e] s := by
  cases h : s.draws <;> simp [record, afterEvents, h]

/-- Two recorded events. -/
theorem record_record_eq_afterEvents (e1 e2 : Event) (s : State) :
    record e2 (record e1 s) = afterEvents [e1, e2] s := by
  rcases h : s.draws with _ | ⟨_, _ | _⟩ <;> simp [record, afterEvents, h]

/-- Two lists of events, one after the other. -/
theorem afterEvents_append (es fs : List Event) (s : State) :
    afterEvents fs (afterEvents es s) = afterEvents (es ++ fs) s := by
  simp [afterEvents, Nat.add_assoc]

end Sys2Proof.Machine
end

