-- ==== Sys2Proof/Laws/Words.lean ====
section
/-!
SUPPORT. The words and bytes the block forms, as arithmetic on natural numbers: each field is added at its place,
since no two fields overlap.
-/

namespace Sys2Proof.Machine

/-- Setting a bit above a number adds its weight. -/
theorem or_eq_add {x : Nat} (i a : Nat) (h : x < 2 ^ i) : 2 ^ i * a ||| x = 2 ^ i * a + x :=
  (Nat.two_pow_add_eq_or_of_lt h a).symm

/-- The tuning word as a number (R110). -/
theorem tuningWord_toNat (clockHz hz : Nat) :
    (tuningWord clockHz hz).toNat = roundHalfUp (hz * 2 ^ 28) clockHz % 2 ^ 28 := by
  rw [tuningWord, BitVec.toNat_ofNat]

/-- The LSB-half word as a number (R88). -/
theorem lsbWord_toNat (tw : BitVec 28) : (lsbWord tw).toNat = 0x4000 + tw.toNat % 2 ^ 14 := by
  have h : tw.toNat % 2 ^ 14 < 2 ^ 14 := Nat.mod_lt _ (Nat.two_pow_pos 14)
  rw [lsbWord, BitVec.toNat_or, BitVec.toNat_setWidth, BitVec.extractLsb'_toNat, Nat.shiftRight_zero,
    Nat.mod_eq_of_lt (Nat.lt_trans h (by decide : 2 ^ 14 < 2 ^ 16))]
  exact or_eq_add 14 1 h

/-- The MSB-half word as a number (R88). -/
theorem msbWord_toNat (tw : BitVec 28) : (msbWord tw).toNat = 0x4000 + tw.toNat / 2 ^ 14 := by
  have h : tw.toNat / 2 ^ 14 < 2 ^ 14 := Nat.div_lt_of_lt_mul tw.isLt
  rw [msbWord, BitVec.toNat_or, BitVec.toNat_setWidth, BitVec.extractLsb'_toNat, Nat.shiftRight_eq_div_pow,
    Nat.mod_eq_of_lt h, Nat.mod_eq_of_lt (Nat.lt_trans h (by decide : 2 ^ 14 < 2 ^ 16))]
  exact or_eq_add 14 1 h

/-- The phase word as a number (R114). -/
theorem phaseWord_toNat (deg : Nat) : (phaseWord deg).toNat = 0xC000 + roundHalfUp (deg * 4096) 360 % 2 ^ 12 := by
  have h : roundHalfUp (deg * 4096) 360 % 2 ^ 12 < 2 ^ 12 := Nat.mod_lt _ (Nat.two_pow_pos 12)
  rw [phaseWord, phaseValue, BitVec.toNat_or, BitVec.toNat_setWidth, BitVec.toNat_ofNat,
    Nat.mod_eq_of_lt (Nat.lt_trans h (by decide : 2 ^ 12 < 2 ^ 16))]
  exact or_eq_add 12 12 h

/-- The read result as a number (R61, R187). -/
theorem readResult_toNat (b0 b1 : Byte) : (readResult b0 b1).toNat = b0.toNat * 256 + b1.toNat := by
  have h0 := b0.isLt
  have h1 := b1.isLt
  rw [readResult, BitVec.toNat_or, BitVec.toNat_shiftLeft, BitVec.toNat_setWidth, BitVec.toNat_setWidth,
    Nat.shiftLeft_eq, Nat.mod_eq_of_lt (by omega : b0.toNat < 2 ^ 16), Nat.mod_eq_of_lt (by omega : b1.toNat < 2 ^ 16),
    Nat.mod_eq_of_lt (by omega : b0.toNat * 2 ^ 8 < 2 ^ 16), Nat.mul_comm]
  rw [or_eq_add 8 b0.toNat h1, Nat.mul_comm]
  norm_num

/-- The command byte of data up to 1023 as a number (R91, R182). -/
theorem potByte1_toNat (a : BitVec 4) (c : BitVec 2) (d : BitVec 16) :
    (potByte1 a c d).toNat = a.toNat * 16 + c.toNat * 4 + d.toNat / 256 % 4 := by
  have ha := a.isLt
  have hc := c.isLt
  have hd : d.toNat / 2 ^ 8 % 2 ^ 2 < 2 ^ 2 := Nat.mod_lt _ (by decide)
  have hcd : 2 ^ 2 * c.toNat + d.toNat / 2 ^ 8 % 2 ^ 2 < 2 ^ 4 := by omega
  rw [potByte1, BitVec.toNat_or, BitVec.toNat_or, BitVec.toNat_shiftLeft, BitVec.toNat_shiftLeft,
    BitVec.toNat_setWidth, BitVec.toNat_setWidth, BitVec.toNat_setWidth, BitVec.extractLsb'_toNat,
    Nat.shiftRight_eq_div_pow, Nat.shiftLeft_eq, Nat.shiftLeft_eq, Nat.mod_eq_of_lt (by omega : a.toNat < 2 ^ 8),
    Nat.mod_eq_of_lt (by omega : c.toNat < 2 ^ 8), Nat.mod_eq_of_lt (by omega : a.toNat * 2 ^ 4 < 2 ^ 8),
    Nat.mod_eq_of_lt (by omega : c.toNat * 2 ^ 2 < 2 ^ 8),
    Nat.mod_eq_of_lt (by omega : d.toNat / 2 ^ 8 % 2 ^ 2 < 2 ^ 8), Nat.or_assoc, Nat.mul_comm c.toNat,
    or_eq_add 2 c.toNat hd, Nat.mul_comm a.toNat, or_eq_add 4 a.toNat hcd]
  omega

/-- The data byte as a number (R182). -/
theorem potByte2_toNat (d : BitVec 16) : (potByte2 d).toNat = d.toNat % 256 := by
  rw [potByte2, BitVec.extractLsb'_toNat, Nat.shiftRight_zero]

end Sys2Proof.Machine
end

