-- ==== Sys2Proof/Tests/Slice0.lean ====
section
/-!
SUPPORT. Tests of the model against the spec's own vectors (95_test_vectors.md, at its settings: 25 MHz, 10 000 ohms,
GATE_BIT 8, 16-bit counter), and for every statement with hypotheses a witness that meets them together.
-/

namespace Sys2Proof.Tests

open Sys2Proof Sys2Proof.Machine

/-- The settings of 95_test_vectors.md. -/
def demoParams : Params where
  clockHz := 25000000
  potOhms := 10000
  potBusAddr := 0x28
  gateBit := .reset8
  errcntWidth := 16

/-- The reset state with the outcomes the buses answer next; a read with outcome `ok` returns (0x00, 0x80). -/
def demo (outcomes : List BusOutcome) : State :=
  { State.resetWith demoParams with draws := outcomes.map fun o => ⟨o, 0x00, 0x80⟩ }

/-- A hung block. -/
def demoHung : State := { demo [] with run := .hung, trace := [.aWord 0x2100 none] }

/-- The host's next move, put before the others. -/
def facing (m : HostMove) (s : State) : State := { s with host := m :: s.host }

/-- Status, results and count. -/
def response (o : StepOutcome) : Option (Byte × Half × Half × BitVec 2 × Nat) :=
  match o with
  | .next t => some (t.rspStatus, t.rspR0, t.rspR1, t.rspLen, t.errcnt)
  | .fault _ => none
  | .refused _ => none

/-- The trace. -/
def events (o : StepOutcome) : Option (List Event) :=
  match o with
  | .next t => some t.trace
  | .fault _ => none
  | .refused _ => none

/-- The image and the run state. -/
def image (o : StepOutcome) : Option (Half × Run) :=
  match o with
  | .next t => some (t.ctrl, t.run)
  | .fault _ => none
  | .refused _ => none

/-! ## Well-formedness: each check refuses an ill-formed term (R7, R93) -/

theorem test_params_wf : paramsWellFormed 25000000 10000 40 8 16 = true := by decide
theorem test_params_clock : paramsWellFormed 0 10000 40 8 16 = false := by decide
theorem test_params_ohms : paramsWellFormed 25000000 0 40 8 16 = false := by decide
theorem test_params_address : paramsWellFormed 25000000 10000 128 8 16 = false := by decide
theorem test_params_gate : paramsWellFormed 25000000 10000 40 7 16 = false := by decide
theorem test_params_width_zero : paramsWellFormed 25000000 10000 40 8 0 = false := by decide
theorem test_params_width_big : paramsWellFormed 25000000 10000 40 8 33 = false := by decide
theorem test_source_wf : (⟨"POT_PACK", [1, 0, 128]⟩ : SourceLine).wellFormed = true := by decide
theorem test_source_mnemonic : (⟨"POT_SEND", [1]⟩ : SourceLine).wellFormed = false := by decide
theorem test_source_count : (⟨"POT_READ", [1, 2]⟩ : SourceLine).wellFormed = false := by decide
theorem test_source_hz : (⟨"FREQ_LOAD", [16777216]⟩ : SourceLine).wellFormed = false := by decide
theorem test_source_deg : (⟨"PHASE_LOAD", [65536]⟩ : SourceLine).wellFormed = false := by decide
theorem test_source_wf_code : (⟨"SET_WAVEFORM", [8]⟩ : SourceLine).wellFormed = false := by decide
theorem test_source_gate : (⟨"SET_GATE", [2]⟩ : SourceLine).wellFormed = false := by decide
theorem test_source_mv : (⟨"GAIN_SOLVE", [65536, 0]⟩ : SourceLine).wellFormed = false := by decide
theorem test_source_addr : (⟨"POT_READ", [16]⟩ : SourceLine).wellFormed = false := by decide
theorem test_source_cmd : (⟨"POT_PACK", [0, 4, 0]⟩ : SourceLine).wellFormed = false := by decide
theorem test_source_data : (⟨"POT_PACK", [0, 0, 65536]⟩ : SourceLine).wellFormed = false := by decide

/-! ## Decoding: words written out from the formats of R81, and the illegal words of 95_test_vectors.md 2.1 -/

theorem test_decode_freqEncode : decode 0b00000001_000000000000001111101000 = .ok (.freqEncode 1000) := by decide
theorem test_decode_freqLoad : decode 0b00000010_011110100001001000000001 = .ok (.freqLoad 8000001) := by decide
theorem test_decode_phaseEncode : decode 0b00000011_00000000_0000000101101000 = .ok (.phaseEncode 360) := by decide
theorem test_decode_phaseLoad : decode 0b00000100_00000000_0000000010110100 = .ok (.phaseLoad 180) := by decide
theorem test_decode_ctrlGet : decode 0b00010000_000000000000000000000000 = .ok .ctrlGet := by decide
theorem test_decode_ctrlSync : decode 0b00010001_000000000000000000000000 = .ok .ctrlSync := by decide
theorem test_decode_setWaveform : decode 0b00010010_000000000000000000000_101 = .ok (.setWaveform 5) := by decide
theorem test_decode_setGate : decode 0b00010011_00000000000000000000000_1 = .ok (.setGate 1) := by decide
theorem test_decode_ctrlReset : decode 0b00010100_000000000000000000000000 = .ok .ctrlReset := by decide
theorem test_decode_gainSolve : decode 0b00100000_00000_001_0000100000110010 = .ok (.gainSolve 1 2098) := by decide
theorem test_decode_ampApply : decode 0b00100001_00000_111_0000111110100001 = .ok (.ampApply 7 4001) := by decide
theorem test_decode_potPack : decode 0b00110000_0101_11_00_0000000000000000 = .ok (.potPack 5 3 0) := by decide
theorem test_decode_potWrite : decode 0b00110001_0001_00_00_0000000011001000 = .ok (.potWrite 1 0 200) := by decide
theorem test_decode_potRead : decode 0b00110010_0001_00000000000000000000 = .ok (.potRead 1) := by decide
theorem test_decode_errGet : decode 0b01000000_000000000000000000000000 = .ok .errGet := by decide

theorem test_decode_unassigned :
    decode 0x00000000 = .error .unassignedOpcode ∧ decode 0x05000000 = .error .unassignedOpcode ∧
    decode 0xFFFFFFFF = .error .unassignedOpcode := by decide
theorem test_decode_reserved :
    decode 0x03010000 = .error .reservedBits ∧ decode 0x10000001 = .error .reservedBits ∧
    decode 0x12000008 = .error .reservedBits ∧ decode 0x13000002 = .error .reservedBits ∧
    decode 0x20080000 = .error .reservedBits ∧ decode 0x30020000 = .error .reservedBits ∧
    decode 0x32010000 = .error .reservedBits ∧ decode 0x40800000 = .error .reservedBits := by decide
theorem test_decode_table_word : decodeTableWord 32 0x31000100 = some (.potWrite 0 0 256) := by decide

/-! ## Commands: vectors of 95_test_vectors.md, one step each -/

/-- 2.2: FREQ_ENCODE 123456. -/
theorem test_freqEncode : response (exec (.freqEncode 123456) (demo [])) = some (0, 0x4050, 0x7A1F, 2, 0) := by decide
/-- 2.2: with CLOCK_HZ = 1 MHz, 999 999 Hz. -/
theorem test_tuningWord_near_clock : tuningWord 1000000 999999 = 0xFFFFEF4 := by decide
/-- 2.2: FREQ_LOAD 10000 with the draws Fail, Ok. -/
theorem test_freqLoad_fail :
    response (exec (.freqLoad 10000) (demo [.fail, .ok])) = some (1, 0x4006, 0x636E, 2, 1) ∧
    events (exec (.freqLoad 10000) (demo [.fail, .ok])) = some [.aWord 0x636E (some .fail), .aWord 0x4006 (some .ok)] :=
  by decide
/-- 2.2: FREQ_LOAD 10000 with the draws Ok, Hang. -/
theorem test_freqLoad_hang :
    events (exec (.freqLoad 10000) (demo [.ok, .hang])) = some [.aWord 0x636E (some .ok), .aWord 0x4006 none] ∧
    image (exec (.freqLoad 10000) (demo [.ok, .hang])) = some (0x2100, .hung) := by decide
/-- 2.3: PHASE_ENCODE 359, and 361 rejected. -/
theorem test_phaseEncode :
    response (exec (.phaseEncode 359) (demo [])) = some (0, 0xCFF5, 0, 1, 0) ∧
    response (exec (.phaseEncode 361) (demo [])) = some (3, 0, 0, 0, 0) := by decide
/-- 2.3: PHASE_LOAD 360 with the draw Fail. -/
theorem test_phaseLoad_fail :
    response (exec (.phaseLoad 360) (demo [.fail])) = some (1, 0xC000, 0, 1, 1) ∧
    events (exec (.phaseLoad 360) (demo [.fail])) = some [.aWord 0xC000 (some .fail)] := by decide
/-- 2.4: CTRL_GET after reset. -/
theorem test_ctrlGet : response (exec .ctrlGet (demo [])) = some (0, 0x2100, 0, 1, 0) := by decide
/-- 2.4: CTRL_SYNC with the draw Fail. -/
theorem test_ctrlSync_fail :
    response (exec .ctrlSync (demo [.fail])) = some (1, 0x2100, 0, 1, 1) ∧
    image (exec .ctrlSync (demo [.fail])) = some (0x2100, .idle) := by decide
/-- 2.4: SET_WAVEFORM SQUARE from 0x2102. -/
theorem test_setWaveform :
    image (exec (.setWaveform 2) { demo [.ok] with ctrl := 0x2102 }) = some (0x2128, .idle) := by decide
/-- 2.4: SET_WAVEFORM TRIANGLE with the draw Fail keeps the image. -/
theorem test_setWaveform_fail :
    image (exec (.setWaveform 1) (demo [.fail])) = some (0x2100, .idle) ∧
    response (exec (.setWaveform 1) (demo [.fail])) = some (1, 0x2102, 0, 1, 1) := by decide
/-- 2.4: SET_GATE OFF from 0x2028. -/
theorem test_setGate : image (exec (.setGate 0) { demo [.ok] with ctrl := 0x2028 }) = some (0x2128, .idle) := by decide
/-- 2.4: with GATE_BIT = 6, CTRL_RESET sends A(0x2040). -/
theorem test_ctrlReset_sleep12 :
    events (exec .ctrlReset { demo [.ok] with params := { demoParams with gateBit := .sleep12 } }) =
      some [.aWord 0x2040 (some .ok)] := by decide
/-- 2.5: the edges of the Sine curve. -/
theorem test_solve_sine :
    solve 10000 0 .sine = (256, 16) ∧ solve 10000 350 .sine = (256, 255) ∧ solve 10000 351 .sine = (256, 256) ∧
    solve 10000 2097 .sine = (2, 256) ∧ solve 10000 2098 .sine = (0, 256) ∧ solve 10000 4000 .sine = (0, 256) := by
  decide
/-- 2.5: the Square curve. -/
theorem test_solve_square :
    solve 10000 0 .square = (256, 0) ∧ solve 10000 2111 .squareDiv2 = (256, 125) ∧
    solve 10000 4000 .square = (256, 236) := by decide
/-- 2.5: GAIN_SOLVE 100, 6. -/
theorem test_gainSolve_unknown : response (exec (.gainSolve 6 100) (demo [])) = some (1, 0, 0, 0, 1) := by decide
/-- 2.5: AMP_APPLY 4000, SINE: one byte for Wiper0, two for Wiper1. -/
theorem test_ampApply_bytes :
    events (exec (.ampApply 0 4000) (demo [.ok, .ok])) =
      some [.bWrite [0x00] (some .ok), .bWrite [0x11, 0x00] (some .ok)] := by decide
/-- 2.5: AMP_APPLY 1000, SQUARE with the draws Fail, Fail. -/
theorem test_ampApply_fail :
    response (exec (.ampApply 2 1000) (demo [.fail, .fail])) = some (1, 0x0100, 0x003B, 2, 2) := by decide
/-- 2.6: POT_PACK WIPER1, INC, 5, and the software-reset payload. -/
theorem test_potPack :
    response (exec (.potPack 1 1 5) (demo [])) = some (0, 0x14, 0x05, 2, 0) ∧
    response (exec (.potPack 0 0 511) (demo [])) = some (1, 0, 0, 0, 0) := by decide
/-- 2.6: POT_WRITE WIPER0, WR, 256. -/
theorem test_potWrite :
    response (exec (.potWrite 0 0 256) (demo [.ok])) = some (0, 0x01, 0x00, 2, 0) ∧
    events (exec (.potWrite 0 0 256) (demo [.ok])) = some [.bWrite [0x01, 0x00] (some .ok)] := by decide
/-- 2.6: POT_READ WIPER1 returning (0x00, 0x80). -/
theorem test_potRead :
    response (exec (.potRead 1) (demo [.ok, .ok])) = some (0, 0x0080, 0, 1, 0) ∧
    events (exec (.potRead 1) (demo [.ok, .ok])) =
      some [.bWrite [0x1C] (some .ok), .bRead (some (.ok 0x00 0x80))] := by decide
/-- 2.6: POT_READ WIPER1 whose arming write fails makes no read. -/
theorem test_potRead_arming_fail :
    response (exec (.potRead 1) (demo [.fail, .ok])) = some (1, 0, 0, 0, 1) ∧
    events (exec (.potRead 1) (demo [.fail, .ok])) = some [.bWrite [0x1C] (some .fail)] := by decide
/-- 2.7: ERR_GET of 70 000 with a 32-bit counter. -/
theorem test_errGet :
    response (exec .errGet { demo [] with
      errcnt := 70000
      params := { demoParams with errcntWidth := 32, errcntWidth_pos := by decide, errcntWidth_le := by decide } }) =
      some (0, 0x1170, 0x0001, 2, 70000) := by decide
/-- 2.7: one more counted error after 65 535 wraps. -/
theorem test_errcnt_wraps :
    response (exec (.setWaveform 4) { demo [] with errcnt := 65535 }) = some (1, 0, 0, 0, 0) := by decide
/-- 2.1: an illegal word through the step. -/
theorem test_step_illegal : response (step ((demo []).withFetchWord 32 0x12000008)) = some (4, 0, 0, 0, 0) := by decide
/-- P5 step 4: reset of a hung block. -/
theorem test_step_reset_hung :
    image (step (facing .assertReset demoHung)) = some (0x2100, .idle) ∧
    events (step (facing .assertReset demoHung)) = some [] := by decide
/-- R240: FREQ_LOAD abandoned by reset after its first word uses up one answer. -/
theorem test_step_abandoned :
    (match step (facing (.presentThenReset 0x02002710 1) (demo [.ok, .fail])) with
      | .next t => decide (t.trace = [] ∧ t.errcnt = 0 ∧ t.drawn = 1 ∧ t.draws.length = 1)
      | .fault _ => false
      | .refused _ => false) = true := by decide
/-- R52: the bytes of A(0x2100) are 0x21 then 0x00. -/
theorem test_wire_bytes : wireBytes demoParams (.aWord 0x2100 (some .ok)) = [0x21, 0x00] := by decide

/-! ## Assembler (R93, R94) -/

theorem test_assemble_lines :
    assembleLine "FREQ_LOAD 1000000" = .command 0x020F4240 ∧ assembleLine "  POT_SET WIPER1, 200 ; P3" = .command 0x311000C8 ∧
    assembleLine "POT_WRITE WIPER0, RD, 0" = .command 0x310C0000 ∧ assembleLine "UNMUTE" = .command 0x13000001 := by decide
theorem test_assemble_refuses :
    assembleLine "SET_GATE MAYBE" = .refused ∧ assembleLine "POT_READ" = .refused ∧
    assembleLine "; only a comment" = .nothing := by decide
/-- R244: the words of the boot sequence (P1 steps 1 to 4). -/
theorem test_boot_words : bootSequence.map encode = [0x14000000, 0x02000000, 0x04000000, 0x21000000] := by decide

/-! ## Witnesses: concrete values that meet a statement's hypotheses together, clause by clause -/

theorem witness_ResetFromAnyState :
    (facing .assertReset demoHung).host = .assertReset :: [] ∧
    (facing (.presentThenReset 0x02002710 1) (demo [.ok])).host = .presentThenReset 0x02002710 1 :: [] := by decide
theorem witness_ResetLeavesTheOutside :
    (facing .assertReset (demo [.ok])).host = .assertReset :: [] ∧
    (facing (.presentThenReset 0x02002710 0) (demo [.ok])).host = .presentThenReset 0x02002710 0 :: [] ∧
    (facing (.presentThenReset 0x02002710 9) (demo [.ok])).host = .presentThenReset 0x02002710 9 :: [] := by decide
theorem witness_StepRunsTheDecodedCommand :
    (facing (.present 0x14000000) (demo [])).host = .present 0x14000000 :: [] ∧ decode 0x14000000 = .ok .ctrlReset ∧
    decode (BitVec.ofNat 32 (0x14000000 % 2 ^ 32)) = .ok .ctrlReset := by decide
theorem witness_IdleBlockWaits : (demo []).run = .idle ∧ (demo []).host = [] := by decide
theorem witness_HungBlockAcceptsNothing :
    (facing (.present 0x14000000) demoHung).run = .hung ∧
    (facing (.present 0x14000000) demoHung).host = .present 0x14000000 :: [] ∧ (demo []).run = .idle := by decide
theorem witness_CommandCompletesWithoutHang :
    (demo [.ok, .fail]).run = .idle ∧ (drawAt (demo [.ok, .fail]) 0).outcome ≠ .hang ∧
    (drawAt (demo [.ok, .fail]) 1).outcome ≠ .hang := by decide
theorem witness_EncodeOfDecode : decode 0x31FC0000 = .ok (.potWrite 15 3 0) := by decide
theorem witness_UnassignedOpcodeRejected :
    (facing (.present 0x41FFFFFF) (demo [])).run = .idle ∧
    (facing (.present 0x41FFFFFF) (demo [])).host = .present 0x41FFFFFF :: [] ∧
    (0x41FFFFFF#32).toNat / 2 ^ 24 ∉
      [0x01, 0x02, 0x03, 0x04, 0x10, 0x11, 0x12, 0x13, 0x14, 0x20, 0x21, 0x30, 0x31, 0x32, 0x40] := by decide
theorem witness_ReservedBitRejected :
    (facing (.present 0x30020000) (demo [])).host = .present 0x30020000 :: [] ∧
    (0x30020000#32).toNat / 2 ^ 24 = 0x30 ∧ 0x30020000#32 &&& 0x00030000 ≠ 0 := by decide
/-- The frequency clauses, at the edge of the range, and every pair of answers a command can meet. -/
theorem witness_range_of_frequency :
    (demo []).run = .idle ∧ 8000000 < (8000001#24).toNat ∧ (8000000#24).toNat ≤ 8000000 := by decide
theorem witness_two_answers :
    (drawAt (demo [.ok, .fail]) 0).outcome = outcomeOf .ok ∧ (drawAt (demo [.ok, .fail]) 1).outcome = outcomeOf .fail ∧
    (drawAt (demo [.hang]) 0).outcome = .hang ∧ (drawAt (demo [.fail, .hang]) 0).outcome = outcomeOf .fail ∧
    (drawAt (demo [.fail, .hang]) 1).outcome = .hang := by decide
theorem witness_one_answer :
    (drawAt (demo [.ok]) 0).outcome = .ok ∧ (drawAt (demo [.fail]) 0).outcome = .fail ∧
    (drawAt (demo [.hang]) 0).outcome = .hang := by decide
theorem witness_range_of_phase : 360 < (361#16).toNat ∧ (360#16).toNat ≤ 360 := by decide
theorem witness_SetWaveformRule :
    4 ≤ (4#3).toNat ∧ ((3#3).toNat, 0x0020#16) ∈ [(0, 0x0000#16), (1, 0x0002), (2, 0x0028), (3, 0x0020)] := by decide
theorem witness_SetGateRule :
    (0x2128 : Half) = (if (0 : BitVec 1) = 1 then 0x2028 &&& ~~~0x0100 else 0x2028 ||| 0x0100) ∧
    (0x2028 : Half) = (if (1 : BitVec 1) = 1 then 0x2128 &&& ~~~0x0100 else 0x2128 ||| 0x0100) := by decide
theorem witness_CtrlResetRule : (0x2100 : Half) = 0x2000 + 0x0100 := by decide
theorem witness_GateAndWaveformAreIndependent :
    0x2128 ∈ legalImages .reset8 ∧ 0x2060 ∈ legalImages .sleep12 := by decide
theorem witness_HardwiredFieldsStay :
    CtrlLegal (demo [.ok]) ∧ ∃ t, exec .ctrlReset (demo [.ok]) = .next t := ⟨by decide, _, rfl⟩
theorem witness_CtrlChangesOnlyOnSuccess :
    (∃ t, exec (.setWaveform 1) (demo [.ok]) = .next t ∧ t.ctrl ≠ (demo [.ok]).ctrl) ∧
    ∃ t, exec (.setWaveform 1) (demo [.fail]) = .next t ∧ t.run = .idle ∧ t.rspStatus ≠ 0 :=
  ⟨⟨_, rfl, by decide⟩, _, rfl, by decide, by decide⟩
theorem witness_SolverFollowsTheFormulas :
    (350 ≤ 350 ∧ 350 ≤ 4000) ∧ (350 < 2098 ∧ 3072000 - 1455 * ((2098 : Nat) : Int) < 20480) ∧
    (350 < 351 ∧ 20480 ≤ 3072000 - 1455 * ((351 : Nat) : Int)) := by decide
theorem witness_GainCurveIsMonotone : 100 ≤ 350 ∧ 350 < 351 ∧ 351 ≤ 2000 := by decide
theorem witness_range_of_amplitude :
    4000 < (4001#16).toNat ∧ (4000#16).toNat ≤ 4000 ∧ 4 ≤ (7#3).toNat ∧
    ((0#3).toNat, Waveform.sine) ∈ [(0, Waveform.sine), (1, .triangle), (2, .square), (3, .squareDiv2)] ∧
    solve (demo []).params.potOhms (4000#16).toNat .sine = (0, 256) := by decide
theorem witness_PotPackLayout : (0#16).toNat ≤ 256 ∧ (256#16).toNat ≤ 256 ∧ 256#16 ≠ 0 := by decide
theorem witness_PotPackInjective : potPack 5 3 256 = potPack 5 3 256 ∧ (256#16).toNat ≤ 256 := by decide
theorem witness_triples :
    6 ≤ (6#4).toNat ∧ 256 < (257#16).toNat ∧ (5#4).toNat ≤ 5 ∧ (256#16).toNat ≤ 256 := by decide
theorem witness_PotReadRule :
    (0x1C : Byte) = BitVec.ofNat 8 ((1#4).toNat * 16 + 0x0C) ∧
    ((drawAt (demo [.ok, .ok]) 0).outcome = .ok ∧ (drawAt (demo [.ok, .ok]) 1).outcome = .ok) ∧
    (drawAt (demo [.ok, .fail]) 1).outcome = .fail ∧ (drawAt (demo [.ok, .hang]) 1).outcome = .hang := by decide
theorem witness_ErrGetRule : (demo []).run = .idle ∧ ErrcntInWidth (demo []) ∧ (demo []).params.errcntWidth ≤ 16 := by
  decide
/-- A counted waveform rejection, a transport failure, a hang, and a word no check passes. -/
theorem witness_runCommand :
    ErrcntInWidth (demo []) ∧
    (∃ t, runCommand 0x12000004 (demo []) = .next t ∧ t.run = .idle) ∧
    (∃ t, runCommand 0x02002710 (demo [.fail, .ok]) = .next t ∧ t.run = .idle) ∧
    (∃ t, runCommand 0x02002710 (demo [.hang]) = .next t ∧ t.run = .hung) ∧
    ∃ t, runCommand 0x05000000 (demo []) = .next t :=
  ⟨by decide, ⟨_, rfl, by decide⟩, ⟨_, rfl, by decide⟩, ⟨_, rfl, by decide⟩, _, rfl⟩
theorem witness_HangWritesNoRegister : ∃ t, exec (.potRead 1) (demo [.ok, .hang]) = .next t ∧ t.run = .hung :=
  ⟨_, rfl, by decide⟩
theorem witness_exec_next : ∃ t, exec (.ampApply 2 1000) (demo [.fail, .ok]) = .next t := ⟨_, rfl⟩
theorem witness_EarlyFailureLeavesState :
    Claims.outOfRange (.ampApply 7 4001) ∧
    (¬ Claims.outOfRange (.gainSolve 6 100) ∧ Claims.unknownWaveform (.gainSolve 6 100)) ∧
    Claims.invalidTriple (.potRead 6) ∧ Claims.invalidTriple (.potWrite 0 0 257) :=
  ⟨(by decide : 4000 < (4001#16).toNat), ⟨(by decide : ¬ 4000 < (100#16).toNat), (by decide : 4 ≤ (6#3).toNat)⟩,
    (by decide : 6 ≤ (6#4).toNat), (by decide : 6 ≤ (0#4).toNat ∨ 256 < (257#16).toNat)⟩
theorem witness_FirstErrorWins :
    decode 0x05000000 = .error .unassignedOpcode ∧ decode 0x21070FA1 = .ok (.ampApply 7 4001) ∧
    decode 0x12000004 = .ok (.setWaveform 4) ∧ decode 0x32600000 = .ok (.potRead 6) ∧
    decode 0x02002710 = .ok (.freqLoad 10000) := by decide
theorem witness_NoCommandReadsTheTrace :
    ∃ t, exec .ctrlSync { demo [.ok] with trace := [] } = .next t := ⟨_, rfl⟩

/-- A DDS chip with B28 = 1 and no half pending, all wipers at 0. -/
def demoDevice : Device := ⟨0x2100, 0, 0, false, 0, 0, 0, 0, 0, none⟩

/-- The reset state with three good answers next, the third one's bytes given. -/
def answering (b0 b1 : Byte) : State :=
  { State.resetWith demoParams with draws := [⟨.ok, 0, 0⟩, ⟨.ok, 0, 0⟩, ⟨.ok, b0, b1⟩] }

/-- What the round-trip statement assumes, from `s` and the demo device. -/
abbrev RoundTripMet (a : BitVec 4) (d : BitVec 16) (s : State) : Prop :=
  a.toNat ≤ 3 ∧ d.toNat ≤ 256 ∧
    ∃ s1 s2, exec (.potWrite a 0b00 d) s = .next s1 ∧ exec (.potRead a) s1 = .next s2 ∧
      s2.trace = s.trace ++ s2.trace ∧ (deviceRun demoDevice s2.trace).isSome = true

/-- At the smallest, a middle and the largest data, and at the first and last wiper address. -/
theorem witness_PotRoundTripInReferenceEnvironment :
    RoundTripMet 0 0 (answering 0x00 0x00) ∧ RoundTripMet 1 128 (answering 0x00 0x80) ∧
      RoundTripMet 3 256 (answering 0x01 0x00) :=
  ⟨⟨by decide, by decide, _, _, rfl, rfl, rfl, by decide⟩, ⟨by decide, by decide, _, _, rfl, rfl, rfl, by decide⟩,
    by decide, by decide, _, _, rfl, rfl, rfl, by decide⟩
/-- R66: a ReadData byte with a data byte selects its register too; increment is outside the environment. -/
theorem test_device_read_select :
    (deviceEvent demoDevice (.bWrite [0x2C, 0x05] (some .ok))).map (·.readSelect) = some (some .nonVolatileWiper0) ∧
    deviceEvent demoDevice (.bWrite [0x04] (some .ok)) = none := by decide
/-- From power-on with a half pending before: CTRL_RESET, then FREQ_LOAD, all good. -/
theorem witness_FreqLoadFromPowerOnInReferenceEnvironment :
    CtrlLegal (demo [.ok, .ok, .ok]) ∧
    ∃ t u, exec .ctrlReset (demo [.ok, .ok, .ok]) = .next t ∧ exec (.freqLoad 1000) t = .next u ∧
      u.trace = (demo [.ok, .ok, .ok]).trace ++ u.trace ∧
      (deviceRun (devicePowerOn { demoDevice with control := 0, pendingHalf := true }) u.trace).isSome = true :=
  ⟨by decide, _, _, rfl, rfl, rfl, by decide⟩
theorem witness_FreqLoadSetsFreq0InReferenceEnvironment :
    demoDevice.control.getLsbD 13 = true ∧ demoDevice.pendingHalf = false ∧
    ∃ t, exec (.freqLoad 8000000) (demo [.ok, .ok]) = .next t ∧ (deviceRun demoDevice t.trace).isSome = true :=
  ⟨by decide, by decide, _, rfl, by decide⟩
theorem witness_ControlWordSynchronisesTheChip :
    CtrlLegal (demo [.ok]) ∧
    ∃ t, exec (.setWaveform 3) (demo [.ok]) = .next t ∧ (deviceRun demoDevice t.trace).isSome = true :=
  ⟨by decide, _, rfl, by decide⟩

/-- A sound state whose next move runs a command. -/
theorem witness_StepKeepsSound :
    Sound (facing (.present 0x14000000) (demo [.ok])) ∧
    ∃ t, step (facing (.present 0x14000000) (demo [.ok])) = .next t :=
  ⟨⟨by decide, by decide, by decide, by decide, by decide, by decide, by decide, by decide⟩, _, rfl⟩
/-- A sound state that hangs: the hang itself, and a hung block that reset leaves. -/
theorem witness_sound_hung : Sound demoHung :=
  ⟨by decide, by decide, by decide, by decide, by decide, by decide, by decide, by decide⟩
theorem witness_OnlyResetLeavesHung :
    (facing .assertReset demoHung).run = .hung ∧ ∃ t, step (facing .assertReset demoHung) = .next t :=
  ⟨by decide, _, rfl⟩

end Sys2Proof.Tests
end

section
/-!
PROOF. The byte order on both buses (20_memory.md R52, R55, R61): each byte of `wireBytes` as arithmetic on the word or the
bus address, one lemma per kind of byte, and O42 from them.
-/

namespace Sys2Proof.Machine

/-- The high byte of a bus-A word, sent first (R52). -/
theorem highByte_eq_ofNat_div (w : Half) : w.extractLsb' 8 8 = BitVec.ofNat 8 (w.toNat / 256) := by
  rw [BitVec.extractLsb', Nat.shiftRight_eq_div_pow]

/-- The low byte of a bus-A word, sent second (R52). -/
theorem lowByte_eq_ofNat (w : Half) : w.extractLsb' 0 8 = BitVec.ofNat 8 w.toNat := by
  rw [BitVec.extractLsb', Nat.shiftRight_zero]

/-- Bus B's address byte with direction 0, a write (log entry 11). -/
theorem writeAddressByte_eq_ofNat (a : BitVec 7) : a.setWidth 8 <<< 1 = BitVec.ofNat 8 (a.toNat * 2) := by
  apply BitVec.eq_of_toNat_eq
  have fits : a.toNat < 128 := a.isLt
  simp only [BitVec.toNat_shiftLeft, BitVec.toNat_setWidth, BitVec.toNat_ofNat, Nat.shiftLeft_eq]
  omega

/-- Bus B's address byte with direction 1, a read (log entry 11): the shifted address is even, so setting bit 0 adds 1. -/
theorem readAddressByte_eq_ofNat (a : BitVec 7) :
    a.setWidth 8 <<< 1 ||| 1 = BitVec.ofNat 8 (a.toNat * 2 + 1) := by
  have bit0_clear : a.setWidth 8 <<< 1 &&& (1 : Byte) = 0#8 := by
    ext i hi
    simp +contextual
  rw [← BitVec.add_eq_or_of_and_eq_zero _ _ bit0_clear, writeAddressByte_eq_ofNat]
  exact (BitVec.ofNat_add _ 1).symm

/-- Settles O42: the three kinds of event, each byte by its own lemma. -/
theorem wireByteOrder : Obligations.WireByteOrder := by
  intro p w o bytes b0 b1
  refine ⟨?aWord, ?bWrite, ?bRead⟩
  case aWord => rw [wireBytes, highByte_eq_ofNat_div, lowByte_eq_ofNat]
  case bWrite => rw [wireBytes, writeAddressByte_eq_ofNat]
  case bRead => rw [wireBytes, readAddressByte_eq_ofNat]

end Sys2Proof.Machine
end

section
/-!
PROOF. Illegal command words (30_encoding.md R85, R86): what the decoder answers for them, one lemma per check, what
the step then does, and O9 and O10 from them. Then the pseudo-instructions (R94): what the assembler makes of each of
those that take operands and of POT_WRITE, one equation per mnemonic, and O50.
-/

namespace Sys2Proof

/-- `OPC` as a number (R80). -/
theorem opcField_toNat (w : Word) : (opcField w).toNat = w.toNat / 2 ^ 24 := by
  have fits : w.toNat / 2 ^ 24 < 2 ^ 8 := Nat.div_lt_of_lt_mul w.isLt
  rw [opcField, BitVec.extractLsb'_toNat, Nat.shiftRight_eq_div_pow, Nat.mod_eq_of_lt fits]

/-- No two rows of the opcode map have the same opcode (R84). -/
theorem opcodeRows_opc_inj {r r' : OpcodeRow} (hr : r ∈ opcodeRows) (hr' : r' ∈ opcodeRows) (h : r.opc = r'.opc) :
    r = r' :=
  have distinct : (opcodeRows.map OpcodeRow.opc).Nodup := by decide
  List.inj_on_of_nodup_map distinct hr hr' h

/-- A word whose opcode no row of the map has is refused for its opcode (R86). -/
theorem decode_eq_unassignedOpcode {w : Word} (h : ∀ r ∈ opcodeRows, r.opc ≠ opcField w) :
    decode w = .error .unassignedOpcode := by
  have no_row : (opcodeRows.find? fun r => r.opc == opcField w) = none :=
    List.find?_eq_none.2 fun r hr => by simpa using h r hr
  rw [decode, no_row]

/-- The decoder finds the row that a word's opcode names (R84). -/
theorem find?_opcodeRows {w : Word} {r : OpcodeRow} (hr : r ∈ opcodeRows) (hopc : r.opc = opcField w) :
    (opcodeRows.find? fun row => row.opc == opcField w) = some r := by
  cases found : opcodeRows.find? fun row => row.opc == opcField w with
  | none => simpa [hopc] using List.find?_eq_none.1 found r hr
  | some r' =>
    have same_opc : r'.opc = opcField w := by simpa using List.find?_some found
    rw [opcodeRows_opc_inj (List.mem_of_find?_eq_some found) hr (same_opc.trans hopc.symm)]

/-- A word with a 1 in a bit its row reserves is refused for it (R85). -/
theorem decode_eq_reservedBits {w : Word} {r : OpcodeRow} (hr : r ∈ opcodeRows) (hopc : r.opc = opcField w)
    (hbits : w &&& r.reserved ≠ 0) : decode w = .error .reservedBits := by
  rw [decode, find?_opcodeRows hr hopc]
  exact if_neg hbits

end Sys2Proof

namespace Sys2Proof.Machine

/-- An idle block that is presented a word the decoder refuses ends it with `OtherError` and zero results (R85, R86). -/
theorem step_present_illegal {s : State} {w : Word} {rest : List HostMove} {e : DecodeError} (hrun : s.run = .idle)
    (hhost : s.host = .present w :: rest) (hdecode : decode w = .error e) :
    step s = .next { s with host := rest, rspStatus := 4, rspR0 := 0, rspR1 := 0, rspLen := 0 } := by
  have idle : { s with host := rest }.run = .idle := hrun
  simp only [step, sequencerStep, takeMove_cons hhost, takeHostMove, runCommand, hdecode, illegalCommand,
    accept_idle idle]
  rfl

/-- Settles O9: the listed opcodes are those of the map's rows, so no row has this word's. -/
theorem unassignedOpcodeRejected : Obligations.UnassignedOpcodeRejected := by
  intro s w rest hrun hhost hopc
  have no_row : ∀ r ∈ opcodeRows, r.opc ≠ opcField w := by
    intro r hr same_opc
    have opc_listed : r.opc.toNat ∈ opcodeRows.map fun row => row.opc.toNat := List.mem_map_of_mem hr
    rw [same_opc, opcField_toNat] at opc_listed
    exact hopc opc_listed
  exact step_present_illegal hrun hhost (decode_eq_unassignedOpcode no_row)

/-- Settles O10: each listed pair is a row of the opcode map, and the decoder finds that row. -/
theorem reservedBitRejected : Obligations.ReservedBitRejected := by
  intro s w rest opc reserved hrun hhost hpair hopc hbits
  have pair_of_row : (opc, reserved) ∈ opcodeRows.map fun row => (row.opc.toNat, row.reserved) :=
    List.subset_def.1 (by decide) hpair
  obtain ⟨r, hr, hrow⟩ := List.mem_map.1 pair_of_row
  obtain ⟨rfl, rfl⟩ := Prod.mk.inj hrow
  have same_opc : r.opc = opcField w := BitVec.eq_of_toNat_eq ((opcField_toNat w).trans hopc).symm
  exact step_present_illegal hrun hhost (decode_eq_reservedBits hr same_opc hbits)

/-- POT_WRITE is assembled when its three operands fit their fields (R93). -/
theorem instrOfSource_potWrite (a c d : Nat) :
    instrOfSource ⟨"POT_WRITE", [a, c, d]⟩ =
      if operandsFit [.addr, .cmd, .data] [a, c, d] then some (.potWrite (.ofNat 4 a) (.ofNat 2 c) (.ofNat 16 d))
      else none := rfl

/-- POT_SET is POT_WRITE with the code WR, when its two operands fit (R94). -/
theorem instrOfSource_potSet (a d : Nat) :
    instrOfSource ⟨"POT_SET", [a, d]⟩ =
      if operandsFit [.addr, .data] [a, d] then some (.potWrite (.ofNat 4 a) 0 (.ofNat 16 d)) else none := rfl

/-- POT_INC is POT_WRITE with the code INC and data 0, when its operand fits (R94). -/
theorem instrOfSource_potInc (a : Nat) :
    instrOfSource ⟨"POT_INC", [a]⟩ =
      if operandsFit [.addr] [a] then some (.potWrite (.ofNat 4 a) 1 0) else none := rfl

/-- POT_DEC is POT_WRITE with the code DEC and data 0, when its operand fits (R94). -/
theorem instrOfSource_potDec (a : Nat) :
    instrOfSource ⟨"POT_DEC", [a]⟩ =
      if operandsFit [.addr] [a] then some (.potWrite (.ofNat 4 a) 2 0) else none := rfl

/-- Settles O50: MUTE and UNMUTE have no operands; the other three leave out operands of POT_WRITE that always fit, so
they are refused exactly when it is. -/
theorem pseudoInstructionsExpand : Obligations.PseudoInstructionsExpand := by
  refine ⟨rfl, rfl, rfl, rfl, fun a d => ⟨?set, ?inc, ?dec⟩⟩
  case set =>
    rw [instrOfSource_potSet, instrOfSource_potWrite]
    simp [operandsFit, OperandKind.width]
  case inc =>
    rw [instrOfSource_potInc, instrOfSource_potWrite]
    simp [operandsFit, OperandKind.width]
  case dec =>
    rw [instrOfSource_potDec, instrOfSource_potWrite]
    simp [operandsFit, OperandKind.width]

end Sys2Proof.Machine
end

section
/-!
PROOF. The DDS codec (40_dds_codec.md R110 to R119): its words in the statements' arithmetic, where they go and how they
join (O15, O16), then each command, one equation per branch (O11 to O14).
-/

namespace Sys2Proof.Machine

open Sys2Proof.Claims

/-! ## The words -/

/-- The tuning word is the statements' number (R110). -/
theorem tuningWord_toNat_eq_tuning (clockHz hz : Nat) : (tuningWord clockHz hz).toNat = tuning clockHz hz :=
  tuningWord_toNat clockHz hz

/-- The LSB-half word in the statements' arithmetic (R88). -/
theorem lsbWord_tuningWord (clockHz hz : Nat) : lsbWord (tuningWord clockHz hz) = lsbOf (tuning clockHz hz) := by
  rw [lsbOf, ← tuningWord_toNat_eq_tuning, ← lsbWord_toNat, BitVec.ofNat_toNat, BitVec.setWidth_eq]

/-- The MSB-half word in the statements' arithmetic (R88). -/
theorem msbWord_tuningWord (clockHz hz : Nat) : msbWord (tuningWord clockHz hz) = msbOf (tuning clockHz hz) := by
  rw [msbOf, ← tuningWord_toNat_eq_tuning, ← msbWord_toNat, BitVec.ofNat_toNat, BitVec.setWidth_eq]

/-- The phase word in the statements' arithmetic (R114). -/
theorem phaseWord_eq_phaseOf (deg : Nat) : phaseWord deg = phaseOf deg := by
  have value : (phaseWord deg).toNat = 0xC000 + (2 * (deg * 4096) + 360) / 720 % 4096 := phaseWord_toNat deg
  rw [phaseOf, ← value, BitVec.ofNat_toNat, BitVec.setWidth_eq]

/-- Joining two words puts the low 14 bits of the first above those of the second (R111). -/
theorem joinFreqWords_toNat (msb lsb : Half) :
    (joinFreqWords msb lsb).toNat = msb.toNat % 2 ^ 14 * 2 ^ 14 + lsb.toNat % 2 ^ 14 := by
  have msb_fits : msb.toNat % 2 ^ 14 < 2 ^ 14 := Nat.mod_lt _ (Nat.two_pow_pos 14)
  have lsb_fits : lsb.toNat % 2 ^ 14 < 2 ^ 14 := Nat.mod_lt _ (Nat.two_pow_pos 14)
  rw [joinFreqWords, BitVec.toNat_or, BitVec.toNat_shiftLeft, BitVec.toNat_setWidth, BitVec.toNat_setWidth,
    BitVec.extractLsb'_toNat, BitVec.extractLsb'_toNat, Nat.shiftRight_zero, Nat.shiftRight_zero, Nat.shiftLeft_eq,
    Nat.mod_eq_of_lt (by omega : msb.toNat % 2 ^ 14 < 2 ^ 28),
    Nat.mod_eq_of_lt (by omega : lsb.toNat % 2 ^ 14 < 2 ^ 28),
    Nat.mod_eq_of_lt (by omega : msb.toNat % 2 ^ 14 * 2 ^ 14 < 2 ^ 28), Nat.mul_comm, or_eq_add 14 _ lsb_fits]

/-- The words of a tuning word join back to it (R111). -/
theorem joinFreqWords_msbWord_lsbWord (tw : BitVec 28) : joinFreqWords (msbWord tw) (lsbWord tw) = tw := by
  apply BitVec.eq_of_toNat_eq
  have fits : tw.toNat < 2 ^ 28 := tw.isLt
  rw [joinFreqWords_toNat, msbWord_toNat, lsbWord_toNat]
  omega

/-- The tag of a bus-A word, bits 15:14, as a number (R53). -/
theorem busATag_toNat (w : Half) : (w.extractLsb' 14 2).toNat = w.toNat / 2 ^ 14 := by
  have fits : w.toNat / 2 ^ 14 < 2 ^ 2 := Nat.div_lt_of_lt_mul w.isLt
  rw [BitVec.extractLsb'_toNat, Nat.shiftRight_eq_div_pow, Nat.mod_eq_of_lt fits]

/-- A word with the tag `01` selects FREQ0 (R53). -/
theorem ddsTarget_eq_freq0 {w : Half} (h : w.toNat / 2 ^ 14 = 0b01) : ddsTarget w = .freq0 := by
  rw [ddsTarget, busATag_toNat, h]
  rfl

/-- A word with the tag `11` and bit 13 clear selects PHASE0 (R53). -/
theorem ddsTarget_eq_phase0 {w : Half} (h : w.toNat / 2 ^ 13 = 0b110) : ddsTarget w = .phase0 := by
  have tag : w.toNat / 2 ^ 14 = 3 := by omega
  have bit13_clear : w.getLsbD 13 = false := by
    rw [← BitVec.testBit_toNat, Nat.testBit_eq_decide_div_mod_eq, h]
    decide
  rw [ddsTarget, busATag_toNat, tag, bit13_clear]
  rfl

/-- The LSB-half word is a FREQ0 word (R88). -/
theorem ddsTarget_lsbWord (tw : BitVec 28) : ddsTarget (lsbWord tw) = .freq0 := by
  apply ddsTarget_eq_freq0
  rw [lsbWord_toNat]
  omega

/-- The MSB-half word is a FREQ0 word (R88). -/
theorem ddsTarget_msbWord (tw : BitVec 28) : ddsTarget (msbWord tw) = .freq0 := by
  apply ddsTarget_eq_freq0
  have fits : tw.toNat < 2 ^ 28 := tw.isLt
  rw [msbWord_toNat]
  omega

/-- The top four bits of the phase word are `1100` (R114). -/
theorem phaseWord_toNat_div (deg : Nat) : (phaseWord deg).toNat / 2 ^ 12 = 0b1100 := by
  rw [phaseWord_toNat]
  omega

/-- The phase word is a PHASE0 word (R114). -/
theorem ddsTarget_phaseWord (deg : Nat) : ddsTarget (phaseWord deg) = .phase0 := by
  apply ddsTarget_eq_phase0
  have top := phaseWord_toNat_div deg
  omega

/-- A whole turn adds 4096 to the rounded phase, which 12 bits drop (R113). -/
theorem phaseValue_add_turn (deg : Nat) : phaseValue (deg + 360) = phaseValue deg := by
  have turn : roundHalfUp ((deg + 360) * 4096) 360 = roundHalfUp (deg * 4096) 360 + 4096 := by
    unfold roundHalfUp
    omega
  rw [phaseValue, turn, BitVec.ofNat_add]
  exact BitVec.add_zero _

/-- Settles O15: each fact holds of the model's words, which are the statements' words. -/
theorem freqWordsJoinToTuningWord : Obligations.FreqWordsJoinToTuningWord := by
  intro clockHz hz
  rw [← lsbWord_tuningWord, ← msbWord_tuningWord, joinFreqWords_msbWord_lsbWord]
  exact ⟨tuningWord_toNat_eq_tuning clockHz hz, rfl, rfl, tuningWord_toNat_eq_tuning clockHz hz,
    ddsTarget_msbWord _, ddsTarget_lsbWord _⟩

/-- Settles O16. No exact half: 8 divides 4096 and 360 but not 180. -/
theorem phaseWordShape : Obligations.PhaseWordShape := by
  intro deg
  have no_exact_half : deg * 4096 % 360 ≠ 180 := by omega
  have turn : phaseWord (deg + 360) = phaseWord deg := by rw [phaseWord, phaseValue_add_turn, phaseWord]
  exact ⟨phaseWord_eq_phaseOf deg, phaseWord_toNat_div deg, ddsTarget_phaseWord deg, no_exact_half, turn⟩

/-! ## The commands -/

/-- The range check of a frequency (R112). -/
theorem freqAdmitted_iff {hz : BitVec 24} : freqAdmitted hz = true ↔ hz.toNat ≤ 8000000 := decide_eq_true_iff

/-- The range check of a phase (R115). -/
theorem phaseAdmitted_iff {deg : BitVec 16} : phaseAdmitted deg = true ↔ deg.toNat ≤ 360 := decide_eq_true_iff

/-- A completed event counts what the statements count for it (R213). -/
theorem failures_eq_failed (o : Completion) : failures o = failed o := by
  cases o <;> rfl

/-- A command of two events succeeds exactly when both drew `Ok` (R211). -/
theorem statusCode_transportStatus_add (o1 o2 : Completion) :
    statusCode (transportStatus (failures o1 + failures o2)) = if o1 = .ok ∧ o2 = .ok then 0 else 1 := by
  cases o1 <;> cases o2 <;> rfl

/-- What FREQ_LOAD does once its operand is admitted, for the words `l` and `m` (R117). -/
def loadFreqWords (l m : Half) : State → State :=
  busASend l fun o1 => busASend m fun o2 s =>
    respond (transportStatus (failures o1 + failures o2)) m l 2 (countErrors (failures o1 + failures o2) s)

section
variable {l m : Half} {o1 o2 : Completion} {s : State}

/-- Both words complete, each with `Ok` or `Fail`: both are in the response, and the failures are counted (R117). -/
theorem loadFreqWords_completed (h1 : (drawAt s 0).outcome = outcomeOf o1) (h2 : (drawAt s 1).outcome = outcomeOf o2) :
    loadFreqWords l m s = respond (transportStatus (failures o1 + failures o2)) m l 2
      (countErrors (failures o1 + failures o2) (afterEvents [.aWord l (some o1), .aWord m (some o2)] s)) := by
  rw [loadFreqWords, busASend_completed h1, busASend_completed (by rw [drawAt_record, h2]),
    record_record_eq_afterEvents]

/-- The first word hangs, and the second is not sent (R117). -/
theorem loadFreqWords_hang_first (h1 : (drawAt s 0).outcome = .hang) :
    loadFreqWords l m s = hang (afterEvents [.aWord l none] s) := by
  rw [loadFreqWords, busASend_hang h1, record_eq_afterEvents]

/-- The first word completes, whatever it drew, and the second hangs (R117). -/
theorem loadFreqWords_hang_second (h1 : (drawAt s 0).outcome = outcomeOf o1) (h2 : (drawAt s 1).outcome = .hang) :
    loadFreqWords l m s = hang (afterEvents [.aWord l (some o1), .aWord m none] s) := by
  rw [loadFreqWords, busASend_completed h1, busASend_hang (by rw [drawAt_record, h2]), record_record_eq_afterEvents]

end

section
variable {hz : BitVec 24} {deg : BitVec 16} {s : State}

/-- FREQ_ENCODE of a frequency in range (R116). -/
theorem execFreqEncode_admitted (hrun : s.run = .idle) (hhz : hz.toNat ≤ 8000000) :
    execFreqEncode hz s = .next (respond .success (msbOf (tuning s.params.clockHz hz.toNat))
      (lsbOf (tuning s.params.clockHz hz.toNat)) 2 s) := by
  rw [execFreqEncode, accept_idle hrun, if_pos (freqAdmitted_iff.2 hhz), ← lsbWord_tuningWord, ← msbWord_tuningWord]

/-- FREQ_ENCODE of a frequency out of range (R116). -/
theorem execFreqEncode_rejected (hrun : s.run = .idle) (hhz : 8000000 < hz.toNat) :
    execFreqEncode hz s = .next (reject .valueTooLarge s) := by
  rw [execFreqEncode, accept_idle hrun, if_neg (mt freqAdmitted_iff.1 hhz.not_ge)]

/-- FREQ_LOAD of a frequency out of range (R117). -/
theorem execFreqLoad_rejected (hrun : s.run = .idle) (hhz : 8000000 < hz.toNat) :
    execFreqLoad hz s = .next (reject .valueTooLarge s) := by
  rw [execFreqLoad, accept_idle hrun, if_neg (mt freqAdmitted_iff.1 hhz.not_ge)]

/-- FREQ_LOAD of a frequency in range sends its two words (R117). -/
theorem execFreqLoad_admitted (hrun : s.run = .idle) (hhz : hz.toNat ≤ 8000000) :
    execFreqLoad hz s = .next (loadFreqWords (lsbOf (tuning s.params.clockHz hz.toNat))
      (msbOf (tuning s.params.clockHz hz.toNat)) s) := by
  rw [execFreqLoad, accept_idle hrun, if_pos (freqAdmitted_iff.2 hhz), ← lsbWord_tuningWord, ← msbWord_tuningWord,
    loadFreqWords]

/-- PHASE_ENCODE of a phase in range (R118). -/
theorem execPhaseEncode_admitted (hrun : s.run = .idle) (hdeg : deg.toNat ≤ 360) :
    execPhaseEncode deg s = .next (respond .success (phaseOf deg.toNat) 0 1 s) := by
  rw [execPhaseEncode, accept_idle hrun, if_pos (phaseAdmitted_iff.2 hdeg), phaseWord_eq_phaseOf]

/-- PHASE_ENCODE of a phase out of range (R118). -/
theorem execPhaseEncode_rejected (hrun : s.run = .idle) (hdeg : 360 < deg.toNat) :
    execPhaseEncode deg s = .next (reject .valueTooLarge s) := by
  rw [execPhaseEncode, accept_idle hrun, if_neg (mt phaseAdmitted_iff.1 hdeg.not_ge)]

/-- PHASE_LOAD of a phase out of range (R119). -/
theorem execPhaseLoad_rejected (hrun : s.run = .idle) (hdeg : 360 < deg.toNat) :
    execPhaseLoad deg s = .next (reject .valueTooLarge s) := by
  rw [execPhaseLoad, accept_idle hrun, if_neg (mt phaseAdmitted_iff.1 hdeg.not_ge)]

/-- PHASE_LOAD whose word completes (R119). -/
theorem execPhaseLoad_completed {o : Completion} (hrun : s.run = .idle) (hdeg : deg.toNat ≤ 360)
    (h : (drawAt s 0).outcome = outcomeOf o) :
    execPhaseLoad deg s = .next (respond (transportStatus (failures o)) (phaseOf deg.toNat) 0 1
      (countFailure o (afterEvents [.aWord (phaseOf deg.toNat) (some o)] s))) := by
  rw [execPhaseLoad, accept_idle hrun, if_pos (phaseAdmitted_iff.2 hdeg), phaseWord_eq_phaseOf, busASend_completed h,
    record_eq_afterEvents]

/-- PHASE_LOAD whose word hangs (R119). -/
theorem execPhaseLoad_hang (hrun : s.run = .idle) (hdeg : deg.toNat ≤ 360) (h : (drawAt s 0).outcome = .hang) :
    execPhaseLoad deg s = .next (hang (afterEvents [.aWord (phaseOf deg.toNat) none] s)) := by
  rw [execPhaseLoad, accept_idle hrun, if_pos (phaseAdmitted_iff.2 hdeg), phaseWord_eq_phaseOf, busASend_hang h,
    record_eq_afterEvents]

end

/-- Settles O11: one equation of FREQ_ENCODE for each side of the range check. -/
theorem freqEncodeRule : Obligations.FreqEncodeRule := by
  intro hz s hrun
  exact ⟨execFreqEncode_rejected hrun, execFreqEncode_admitted hrun⟩

/-- Settles O12: the range check, then what the draws for the two words allow: both complete, or a hang on either. -/
theorem freqLoadRule : Obligations.FreqLoadRule := by
  intro hz s hrun
  refine ⟨execFreqLoad_rejected hrun, fun hhz => ?_⟩
  rw [exec, execFreqLoad_admitted hrun hhz]
  refine ⟨fun o1 o2 h1 h2 => ?completed, fun h1 => ?hangFirst, fun o1 h1 h2 => ?hangSecond⟩
  case completed =>
    rw [loadFreqWords_completed h1 h2, ← failures_eq_failed, ← failures_eq_failed, ← statusCode_transportStatus_add]
    rfl
  case hangFirst =>
    rw [loadFreqWords_hang_first h1]
    rfl
  case hangSecond =>
    rw [loadFreqWords_hang_second h1 h2]
    rfl

/-- Settles O13: one equation of PHASE_ENCODE for each side of the range check. -/
theorem phaseEncodeRule : Obligations.PhaseEncodeRule := by
  intro deg s hrun
  exact ⟨execPhaseEncode_rejected hrun, execPhaseEncode_admitted hrun⟩

/-- Settles O14: the range check, then the word's three outcomes. -/
theorem phaseLoadRule : Obligations.PhaseLoadRule := by
  intro deg s hrun
  refine ⟨execPhaseLoad_rejected hrun, fun hdeg => ⟨?ok, ?fail, execPhaseLoad_hang hrun hdeg⟩⟩
  case ok => exact execPhaseLoad_completed (o := .ok) hrun hdeg
  case fail => exact execPhaseLoad_completed (o := .fail) hrun hdeg

end Sys2Proof.Machine
end

section
/-!
PROOF. The control register (41_control_register.md R130 to R136). Four commands differ only in the image they commit:
`commandImage` names it, one lemma says what such a command does for each draw (O18 to O21), and one what every other
command does to `CTRL`. O23 follows, because every committed image of a block with a legal `CTRL` is legal.
-/

namespace Sys2Proof.Machine

open Sys2Proof.Claims

/-! ## The commit step -/

/-- The image a command commits; `none` for a command that sends no control word (R131 to R135). -/
def commandImage : Instr → State → Option Half
  | .ctrlSync, s => some s.ctrl
  | .setWaveform wf, s => (waveformOf wf).map (withWave s.ctrl)
  | .setGate on, s => some (withGate s.params.gateBit s.ctrl on)
  | .ctrlReset, s => some (ctrlResetValue s.params.gateBit)
  | _, _ => none

section
variable {i : Instr} {n : Half} {s : State}

/-- A control word that draws `Ok` is stored (R130). -/
theorem ctlCommit_ok (h : (drawAt s 0).outcome = .ok) :
    ctlCommit n s = respond .success n 0 1 (setCtrl n (afterEvents [.aWord n (some .ok)] s)) := by
  rw [ctlCommit, busASend_completed (c := .ok) h, record_eq_afterEvents]

/-- A control word that draws `Fail` is counted and not stored (R130). -/
theorem ctlCommit_fail (h : (drawAt s 0).outcome = .fail) :
    ctlCommit n s = respond .unknownError n 0 1 (countErrors 1 (afterEvents [.aWord n (some .fail)] s)) := by
  rw [ctlCommit, busASend_completed (c := .fail) h, record_eq_afterEvents]

/-- A control word that draws `Hang` ends the command without a response (R130, R217). -/
theorem ctlCommit_hang (h : (drawAt s 0).outcome = .hang) :
    ctlCommit n s = hang (afterEvents [.aWord n none] s) := by
  rw [ctlCommit, busASend_hang h, record_eq_afterEvents]

/-- The commit step leaves the new image or the old one in `CTRL` (R130). -/
theorem ctlCommit_ctrl (n : Half) (s : State) : (ctlCommit n s).ctrl = n ∨ (ctlCommit n s).ctrl = s.ctrl := by
  rcases ctlCommit_cases n s with ⟨-, e⟩ | ⟨-, e⟩ | ⟨-, e⟩
  · exact .inl (by rw [e, respond_ctrl, setCtrl_ctrl])
  · exact .inr (by rw [e, respond_ctrl, countErrors_ctrl, record_ctrl])
  · exact .inr (by rw [e, hang_ctrl, record_ctrl])

/-- A command with an image accepts and commits it. -/
theorem exec_eq_accept_ctlCommit (himage : commandImage i s = some n) : exec i s = accept (ctlCommit n) s := by
  cases i with
  | ctrlSync | setGate _ | ctrlReset =>
    obtain rfl := Option.some.inj himage
    rfl
  | setWaveform wf =>
    obtain ⟨k, hk, rfl⟩ := Option.map_eq_some_iff.1 himage
    rw [exec, execSetWaveform, accept, hk, accept]
  | _ => exact nomatch himage

/-- What a command with an image does for each draw of its control word (R130). -/
theorem exec_commit_draws (hrun : s.run = .idle) (himage : commandImage i s = some n) :
    ((drawAt s 0).outcome = .ok → exec i s =
      .next (respond .success n 0 1 (setCtrl n (afterEvents [.aWord n (some .ok)] s)))) ∧
    ((drawAt s 0).outcome = .fail → exec i s =
      .next (respond .unknownError n 0 1 (countErrors 1 (afterEvents [.aWord n (some .fail)] s)))) ∧
    ((drawAt s 0).outcome = .hang → exec i s = .next (hang (afterEvents [.aWord n none] s))) := by
  rw [exec_eq_accept_ctlCommit himage, accept_idle hrun]
  exact ⟨fun h => by rw [ctlCommit_ok h], fun h => by rw [ctlCommit_fail h], fun h => by rw [ctlCommit_hang h]⟩

end

/-! ## The images -/

/-- The gate bit is the statements' number (R26). -/
theorem gateMask_eq_gateValue (g : GateBit) : gateMask g = gateValue g := by
  cases g <;> rfl

/-- The gate bit is not B28, so setting both adds them (R27). -/
theorem ctrlResetValue_eq_add (g : GateBit) : ctrlResetValue g = 0x2000 + gateValue g := by
  cases g <;> rfl

/-- The codes that name no waveform (R87). -/
theorem waveformOf_eq_none_iff : ∀ {wf : BitVec 3}, waveformOf wf = none ↔ 4 ≤ wf.toNat := by
  decide

/-- The codes that name a waveform, and the fields each sets (R24, R87). -/
theorem exists_waveformOf {wf : BitVec 3} {bits : Half}
    (h : (wf.toNat, bits) ∈ [(0, 0x0000#16), (1, 0x0002), (2, 0x0028), (3, 0x0020)]) :
    ∃ k, waveformOf wf = some k ∧ waveBits k = bits := by
  simp only [List.mem_cons, List.not_mem_nil, or_false, Prod.mk.injEq] at h
  rcases h with ⟨hwf, rfl⟩ | ⟨hwf, rfl⟩ | ⟨hwf, rfl⟩ | ⟨hwf, rfl⟩
  · exact ⟨.sine, by simp [waveformOf, hwf], rfl⟩
  · exact ⟨.triangle, by simp [waveformOf, hwf], rfl⟩
  · exact ⟨.square, by simp [waveformOf, hwf], rfl⟩
  · exact ⟨.squareDiv2, by simp [waveformOf, hwf], rfl⟩

/-! ## The commands -/

/-- SET_WAVEFORM of an unknown code (R133). -/
theorem execSetWaveform_rejected {wf : BitVec 3} {s : State} (hrun : s.run = .idle) (hwf : 4 ≤ wf.toNat) :
    execSetWaveform wf s = .next (rejectWaveform s) := by
  rw [execSetWaveform, accept_idle hrun, waveformOf_eq_none_iff.2 hwf]

/-- Settles O17: an idle block accepts CTRL_GET, whose body only writes the response. -/
theorem ctrlGetRule : Obligations.CtrlGetRule := by
  intro s hrun
  rw [exec, execCtrlGet, accept_idle hrun]
  rfl

/-- Settles O18: the image committed is `CTRL` itself, so storing it changes nothing. -/
theorem ctrlSyncRule : Obligations.CtrlSyncRule := by
  intro s hrun
  exact exec_commit_draws hrun rfl

/-- Settles O19: an unknown code has no image; a known one commits the image with its kind's fields. -/
theorem setWaveformRule : Obligations.SetWaveformRule := by
  intro wf s hrun
  refine ⟨execSetWaveform_rejected hrun, fun bits n hcode hn => ?_⟩
  obtain ⟨k, hk, rfl⟩ := exists_waveformOf hcode
  have himage : commandImage (.setWaveform wf) s = some n := by
    rw [commandImage, hk, hn]
    rfl
  exact exec_commit_draws hrun himage

/-- Settles O20: the image committed has the gate bit cleared or set as the operand says. -/
theorem setGateRule : Obligations.SetGateRule := by
  intro on s n hrun hn
  have himage : commandImage (.setGate on) s = some n := by
    rw [commandImage, withGate, gateMask_eq_gateValue, hn]
  exact exec_commit_draws hrun himage

/-- Settles O21: the image committed is the reset image. -/
theorem ctrlResetRule : Obligations.CtrlResetRule := by
  intro s n hrun hn
  have himage : commandImage .ctrlReset s = some n := by
    rw [commandImage, ctrlResetValue_eq_add, hn]
  exact exec_commit_draws hrun himage

/-! ## What every command keeps -/

/-- Counting a failure leaves `CTRL`. -/
@[simp] theorem countFailure_ctrl (o : Completion) (s : State) : (countFailure o s).ctrl = s.ctrl := by
  cases o <;> rfl

/-- A command without an image leaves `CTRL` (R136). -/
theorem exec_ctrl_of_no_image {i : Instr} {s t : State} (h : exec i s = .next t) (himage : commandImage i s = none) :
    t.ctrl = s.ctrl := by
  cases i with
  | freqEncode hz => obtain ⟨-, ⟨-, rfl⟩ | ⟨-, rfl⟩⟩ := execFreqEncode_next h <;> rfl
  | freqLoad hz =>
    obtain ⟨-, ⟨-, rfl⟩ | ⟨-, l, m, -, -, sent⟩⟩ := execFreqLoad_next h
    · rfl
    · obtain ⟨o1, o2, -, -, rfl⟩ | ⟨o1, -, -, rfl⟩ | ⟨-, rfl⟩ := sent <;> rfl
  | phaseEncode deg => obtain ⟨-, ⟨-, rfl⟩ | ⟨-, rfl⟩⟩ := execPhaseEncode_next h <;> rfl
  | phaseLoad deg =>
    obtain ⟨-, ⟨-, rfl⟩ | ⟨-, ⟨o, -, rfl⟩ | ⟨-, rfl⟩⟩⟩ := execPhaseLoad_next h
    · rfl
    · exact countFailure_ctrl o _
    · rfl
  | ctrlGet =>
    obtain ⟨-, rfl⟩ := execCtrlGet_next h
    rfl
  | ctrlSync | setGate _ | ctrlReset => exact nomatch himage
  | setWaveform wf =>
    have unknown : waveformOf wf = none := Option.map_eq_none_iff.1 himage
    obtain ⟨-, ⟨-, rfl⟩ | ⟨k, hk, -⟩⟩ := execSetWaveform_next h
    · rfl
    · exact nomatch unknown.symm.trans hk
  | gainSolve wf mv => obtain ⟨-, ⟨-, rfl⟩ | ⟨-, -, rfl⟩ | ⟨-, k, -, rfl⟩⟩ := execGainSolve_next h <;> rfl
  | ampApply wf mv =>
    obtain ⟨-, ⟨-, rfl⟩ | ⟨-, -, rfl⟩ | ⟨-, k, taps, b0, b1, -, -, -, -, sent⟩⟩ := execAmpApply_next h
    · rfl
    · rfl
    · obtain ⟨o0, o1, -, -, rfl⟩ | ⟨o0, -, -, rfl⟩ | ⟨-, rfl⟩ := sent <;> rfl
  | potPack a c d => obtain ⟨-, ⟨-, rfl⟩ | ⟨-, rfl⟩⟩ := execPotPack_next h <;> rfl
  | potWrite a c d =>
    obtain ⟨-, ⟨-, rfl⟩ | ⟨-, ⟨o, -, rfl⟩ | ⟨-, rfl⟩⟩⟩ := execPotWrite_next h
    · rfl
    · exact countFailure_ctrl o _
    · rfl
  | potRead a =>
    obtain ⟨-, ⟨-, rfl⟩ | ⟨-, arming, -, ⟨-, rfl⟩ | ⟨-, rfl⟩ | ⟨-, read⟩⟩⟩ := execPotRead_next h
    · rfl
    · rfl
    · rfl
    · obtain ⟨-, rfl⟩ | ⟨-, rfl⟩ | ⟨-, b0, b1, -, -, rfl⟩ := read <;> rfl
  | errGet =>
    obtain ⟨-, rfl⟩ := execErrGet_next h
    rfl

/-- A command ends with its image in `CTRL`, or with `CTRL` as it was (R130, R136). -/
theorem exec_ctrl {i : Instr} {s t : State} (h : exec i s = .next t) :
    commandImage i s = some t.ctrl ∨ t.ctrl = s.ctrl := by
  cases himage : commandImage i s with
  | none => exact .inr (exec_ctrl_of_no_image h himage)
  | some n =>
    obtain ⟨-, rfl⟩ := accept_next_iff.1 ((exec_eq_accept_ctlCommit himage).symm.trans h)
    exact (ctlCommit_ctrl n s).imp_left fun stored => congrArg some stored.symm

/-- What holds of the eight legal images, checked one by one, holds of every legal image (R28). -/
theorem of_mem_legalImages {P : Half → Prop} [DecidablePred P] {g : GateBit} {c : Half}
    (check : (legalImages g).all (fun c => decide (P c)) = true) (h : c ∈ legalImages g) : P c :=
  of_decide_eq_true (List.all_eq_true.1 check c h)

/-- Selecting a waveform in a legal image gives a legal image (R28, R133). -/
theorem withWave_mem_legalImages {g : GateBit} {c : Half} (k : Waveform) (h : c ∈ legalImages g) :
    withWave c k ∈ legalImages g := by
  refine of_mem_legalImages (P := fun c => withWave c k ∈ legalImages g) ?_ h
  cases g <;> cases k <;> decide

/-- Setting the gate in a legal image gives a legal image (R28, R134). -/
theorem withGate_mem_legalImages {g : GateBit} {c : Half} (on : BitVec 1) (h : c ∈ legalImages g) :
    withGate g c on ∈ legalImages g := by
  refine of_mem_legalImages (P := fun c => withGate g c on ∈ legalImages g) ?_ h
  revert on
  cases g <;> decide

/-- The reset image is legal (R27, R28). -/
theorem ctrlResetValue_mem_legalImages (g : GateBit) : ctrlResetValue g ∈ legalImages g := by
  cases g <;> decide

/-- On a block with a legal `CTRL` every command's image is legal (R28). -/
theorem commandImage_mem_legalImages {i : Instr} {n : Half} {s : State} (legal : CtrlLegal s)
    (himage : commandImage i s = some n) : n ∈ legalImages s.params.gateBit := by
  cases i with
  | ctrlSync =>
    obtain rfl := Option.some.inj himage
    exact legal
  | setWaveform wf =>
    obtain ⟨k, -, rfl⟩ := Option.map_eq_some_iff.1 himage
    exact withWave_mem_legalImages k legal
  | setGate on =>
    obtain rfl := Option.some.inj himage
    exact withGate_mem_legalImages on legal
  | ctrlReset =>
    obtain rfl := Option.some.inj himage
    exact ctrlResetValue_mem_legalImages _
  | _ => exact nomatch himage

/-- Every command keeps the image in `CTRL` legal (R28). -/
theorem exec_ctrl_mem_legalImages {i : Instr} {s t : State} (legal : CtrlLegal s) (h : exec i s = .next t) :
    t.ctrl ∈ legalImages s.params.gateBit := by
  rcases exec_ctrl h with committed | kept
  · exact commandImage_mem_legalImages legal committed
  · rwa [kept]

/-- The fields no command writes, at their hardwired values: all but OPBITEN, DIV2, MODE and the gate bit (R23, R25). -/
abbrev HardwiredFields (g : GateBit) (f : CtrlFields) : Prop :=
  f.tag = 0 ∧ f.b28 = true ∧ f.hlb = false ∧ f.fselect = false ∧ f.pselect = false ∧ f.reserved9 = false ∧
    f.sleep1 = false ∧ f.reserved4 = false ∧ f.reserved2 = false ∧ f.reserved0 = false ∧
    (g = .reset8 → f.sleep12 = false) ∧ (g = .sleep12 → f.reset = false)

/-- The hardwired fields of each of the eight legal images (R25, R28). -/
theorem hardwiredFields_of_mem_legalImages {g : GateBit} {c : Half} (h : c ∈ legalImages g) :
    HardwiredFields g (ctrlFieldsOf c) := by
  refine of_mem_legalImages (P := fun c => HardwiredFields g (ctrlFieldsOf c)) ?_ h
  cases g <;> decide

/-- Settles O23: `CTRL` stays a legal image, and a legal image has the hardwired fields. -/
theorem hardwiredFieldsStay : Obligations.HardwiredFieldsStay := by
  intro i s t legal h
  exact hardwiredFields_of_mem_legalImages (exec_ctrl_mem_legalImages legal h)

end Sys2Proof.Machine
end

section
/-!
PROOF. The gain curve (42_gain_curve.md R150 to R164): the solver's branches in the statements' arithmetic and the range
of its results (O25). Then the two commands that take an amplitude and a waveform code: they differ only in what they do
once both checks pass, so `amplitudeCommand` says the checks once for GAIN_SOLVE (O27) and AMP_APPLY (O28).
-/

namespace Sys2Proof.Machine

open Sys2Proof.Claims

/-! ## The solver -/

/-- Clamping to a range is a maximum over a minimum (R10). -/
theorem clamp_eq_max_min {v lo hi : Nat} (h : lo ≤ hi) : clamp v lo hi = max lo (min hi v) := by
  unfold clamp
  split_ifs <;> omega

/-- A resistance below 80 ohms is replaced by 0 (R155). -/
theorem noiseFloor_of_lt {r : Int} (h : r < 20480) : noiseFloor r = 0 := if_pos h

/-- A resistance of 80 ohms or more is kept (R155). -/
theorem noiseFloor_of_le {r : Int} (h : 20480 ≤ r) : noiseFloor r = r.toNat := if_neg h.not_gt

/-- Branch A: the attenuator's taps, never fewer than 16 (R154). -/
theorem solveBranchA_eq (potOhms mv : Nat) :
    solveBranchA potOhms mv = (256, max 16 (min 256 ((7099 * mv + 69120) / potOhms))) := by
  rw [solveBranchA, clamp_eq_max_min (by decide), tapsOf]

/-- Branch B: the feedback's taps for the resistance left by the noise floor (R155). -/
theorem solveBranchB_eq (potOhms mv : Nat) :
    solveBranchB potOhms mv = (min 256 (noiseFloor (3072000 - 1455 * (mv : Int)) / potOhms), 256) := by
  rw [solveBranchB, clamp_eq_max_min (Nat.zero_le _), Nat.zero_max, tapsOf]
  rfl

/-- Branch C: the attenuator's taps, without a floor (R156). -/
theorem solveBranchC_eq (potOhms mv : Nat) :
    solveBranchC potOhms mv = (256, min 256 ((590 * mv + 5952) / potOhms)) := by
  rw [solveBranchC, clamp_eq_max_min (Nat.zero_le _), Nat.zero_max, tapsOf]

section
variable {potOhms mv : Nat} {k : Waveform}

/-- Sine and Triangle up to the knee are solved by branch A (R154, R159). -/
theorem solve_eq_branchA (hk : k = .sine ∨ k = .triangle) (hmv : mv ≤ 350) :
    solve potOhms mv k = solveBranchA potOhms mv := by
  rcases hk with rfl | rfl <;> exact if_pos hmv

/-- Sine and Triangle above the knee are solved by branch B (R155, R159). -/
theorem solve_eq_branchB (hk : k = .sine ∨ k = .triangle) (hmv : 350 < mv) :
    solve potOhms mv k = solveBranchB potOhms mv := by
  rcases hk with rfl | rfl <;> exact if_neg hmv.not_ge

/-- Square and SquareDiv2 are solved by branch C at every amplitude (R156, R159). -/
theorem solve_eq_branchC (hk : k = .square ∨ k = .squareDiv2) : solve potOhms mv k = solveBranchC potOhms mv := by
  rcases hk with rfl | rfl <;> rfl

end

/-- Every kind and amplitude falls to one of the three branches (R159). -/
theorem solve_eq_branch (potOhms mv : Nat) (k : Waveform) :
    solve potOhms mv k = solveBranchA potOhms mv ∨ solve potOhms mv k = solveBranchB potOhms mv ∨
      solve potOhms mv k = solveBranchC potOhms mv := by
  have kinds : (k = .sine ∨ k = .triangle) ∨ k = .square ∨ k = .squareDiv2 := by cases k <;> decide
  rcases kinds with hk | hk
  · rcases Nat.lt_or_ge 350 mv with above | upTo
    · exact .inr (.inl (solve_eq_branchB hk above))
    · exact .inl (solve_eq_branchA hk upTo)
  · exact .inr (.inr (solve_eq_branchC hk))

/-- Both tap counts are in range (R159). -/
theorem solve_le_tapMax (potOhms mv : Nat) (k : Waveform) :
    (solve potOhms mv k).1 ≤ 256 ∧ (solve potOhms mv k).2 ≤ 256 := by
  rcases solve_eq_branch potOhms mv k with e | e | e
  · rw [e, solveBranchA_eq]
    exact ⟨le_rfl, max_le (by decide) (min_le_left _ _)⟩
  · rw [e, solveBranchB_eq]
    exact ⟨min_le_left _ _, le_rfl⟩
  · rw [e, solveBranchC_eq]
    exact ⟨le_rfl, min_le_left _ _⟩

/-- Settles O25: each clause's guard picks a branch, and above the knee the noise floor picks between two results. -/
theorem solverFollowsTheFormulas : Obligations.SolverFollowsTheFormulas := by
  intro potOhms mv _
  refine ⟨fun k hk hmv => ?upToKnee, fun k hk hmv floor => ?belowFloor, fun k hk hmv floor => ?aboveFloor,
    fun k hk => ?square, solve_le_tapMax potOhms mv⟩
  case upToKnee => rw [solve_eq_branchA hk hmv, solveBranchA_eq]
  case belowFloor => rw [solve_eq_branchB hk hmv, solveBranchB_eq, noiseFloor_of_lt floor, Nat.zero_div, Nat.min_zero]
  case aboveFloor =>
    have resistance : (3072000 - 1455 * (mv : Int)).toNat = 3072000 - 1455 * mv := by omega
    rw [solve_eq_branchB hk hmv, solveBranchB_eq, noiseFloor_of_le floor, resistance]
  case square => rw [solve_eq_branchC hk, solveBranchC_eq]

/-! ## The checks of both commands -/

/-- The range check of an amplitude (R160). -/
theorem ampAdmitted_iff {mv : BitVec 16} : ampAdmitted mv = true ↔ mv.toNat ≤ 4000 := decide_eq_true_iff

/-- A row of the waveform codes gives the kind of its code (R87). -/
theorem waveformOf_eq_some {wf : BitVec 3} {k : Waveform}
    (h : (wf.toNat, k) ∈ [(0, Waveform.sine), (1, .triangle), (2, .square), (3, .squareDiv2)]) :
    waveformOf wf = some k := by
  have rows : ∀ wf : BitVec 3, ∀ row ∈ [(0, Waveform.sine), (1, .triangle), (2, .square), (3, .squareDiv2)],
      wf.toNat = row.1 → waveformOf wf = some row.2 := by decide
  exact rows wf (wf.toNat, k) h rfl

/-- A command with an amplitude and a waveform code: the range check, then the waveform check, then `body` (R161). -/
def amplitudeCommand (wf : BitVec 3) (mv : BitVec 16) (body : Waveform → State → State) : State → StepOutcome :=
  accept fun s =>
    if ampAdmitted mv then
      match waveformOf wf with
      | none => rejectWaveform s
      | some k => body k s
    else reject .valueTooLarge s

section
variable {wf : BitVec 3} {mv : BitVec 16} {body : Waveform → State → State} {s : State} {k : Waveform}

/-- An amplitude out of range is rejected, whatever the code (R161). -/
theorem amplitudeCommand_outOfRange (hrun : s.run = .idle) (hmv : 4000 < mv.toNat) :
    amplitudeCommand wf mv body s = .next (reject .valueTooLarge s) := by
  rw [amplitudeCommand, accept_idle hrun, if_neg (mt ampAdmitted_iff.1 hmv.not_ge)]

/-- An unknown waveform code is counted and rejected (R161). -/
theorem amplitudeCommand_unknownWaveform (hrun : s.run = .idle) (hmv : mv.toNat ≤ 4000) (hwf : 4 ≤ wf.toNat) :
    amplitudeCommand wf mv body s = .next (rejectWaveform s) := by
  rw [amplitudeCommand, accept_idle hrun, if_pos (ampAdmitted_iff.2 hmv), waveformOf_eq_none_iff.2 hwf]

/-- An amplitude in range with a known code is passed on (R161). -/
theorem amplitudeCommand_admitted (hrun : s.run = .idle) (hmv : mv.toNat ≤ 4000) (hk : waveformOf wf = some k) :
    amplitudeCommand wf mv body s = .next (body k s) := by
  rw [amplitudeCommand, accept_idle hrun, if_pos (ampAdmitted_iff.2 hmv), hk]

end

/-! ## The commands -/

/-- What GAIN_SOLVE does once its operands are admitted: it answers the tap pair (R162). -/
def answerTaps (mv : BitVec 16) (k : Waveform) (s : State) : State :=
  respondTaps .success (solve s.params.potOhms mv.toNat k) s

/-- GAIN_SOLVE is the two checks and the answer (R162). -/
theorem exec_gainSolve (wf : BitVec 3) (mv : BitVec 16) (s : State) :
    exec (.gainSolve wf mv) s = amplitudeCommand wf mv (answerTaps mv) s := rfl

/-- The two writes of AMP_APPLY, of `taps.1` to Wiper0 and `taps.2` to Wiper1, and its response (R163). -/
def applyTaps (taps : Nat × Nat) : State → State :=
  tapWrite wiper0Addr taps.1 fun o0 => tapWrite wiper1Addr taps.2 fun o1 s =>
    respondTaps (transportStatus (failures o0 + failures o1)) taps (countErrors (failures o0 + failures o1) s)

/-- AMP_APPLY is the two checks and the two writes (R163). -/
theorem exec_ampApply (wf : BitVec 3) (mv : BitVec 16) (s : State) : exec (.ampApply wf mv) s =
    amplitudeCommand wf mv (fun k s => applyTaps (solve s.params.potOhms mv.toNat k) s) s := rfl

/-- The event of a WriteData of `d` to the wiper at `a` (R164). -/
def tapEvent (a : BitVec 4) (d : Nat) (o : Option Completion) : Event := .bWrite (potPack a 0b00 (BitVec.ofNat 16 d)) o

section
variable {a : BitVec 4} {d : Nat} {rest : Completion → State → State} {taps : Nat × Nat} {o o0 o1 : Completion}
  {s : State}

/-- A wiper write that draws an outcome other than `Hang` is recorded with it, and the command goes on (R164). -/
theorem tapWrite_completed (h : (drawAt s 0).outcome = outcomeOf o) :
    tapWrite a d rest s = rest o (record (tapEvent a d (some o)) s) :=
  busBWrite_completed h

/-- A wiper write that draws `Hang` ends the command (R164). -/
theorem tapWrite_hang (h : (drawAt s 0).outcome = .hang) :
    tapWrite a d rest s = hang (record (tapEvent a d none) s) :=
  busBWrite_hang h

/-- Both writes complete, each with `Ok` or `Fail`: the response has the taps, and the failures are counted (R163). -/
theorem applyTaps_completed (h0 : (drawAt s 0).outcome = outcomeOf o0) (h1 : (drawAt s 1).outcome = outcomeOf o1) :
    applyTaps taps s = respondTaps (transportStatus (failures o0 + failures o1)) taps
      (countErrors (failures o0 + failures o1)
        (afterEvents [tapEvent 0x0 taps.1 (some o0), tapEvent 0x1 taps.2 (some o1)] s)) := by
  rw [applyTaps, tapWrite_completed h0, tapWrite_completed (by rw [drawAt_record, h1]),
    record_record_eq_afterEvents, wiper0Addr, wiper1Addr]

/-- The write to Wiper0 hangs, and Wiper1 is not written (R163). -/
theorem applyTaps_hang_first (h0 : (drawAt s 0).outcome = .hang) :
    applyTaps taps s = hang (afterEvents [tapEvent 0x0 taps.1 none] s) := by
  rw [applyTaps, tapWrite_hang h0, record_eq_afterEvents, wiper0Addr]

/-- The write to Wiper0 completes, whatever it drew, and the write to Wiper1 hangs (R163). -/
theorem applyTaps_hang_second (h0 : (drawAt s 0).outcome = outcomeOf o0) (h1 : (drawAt s 1).outcome = .hang) :
    applyTaps taps s = hang (afterEvents [tapEvent 0x0 taps.1 (some o0), tapEvent 0x1 taps.2 none] s) := by
  rw [applyTaps, tapWrite_completed h0, tapWrite_hang (by rw [drawAt_record, h1]), record_record_eq_afterEvents,
    wiper0Addr, wiper1Addr]

end

/-- Settles O27: the two checks, each with its rejection, then the answer. -/
theorem gainSolveRule : Obligations.GainSolveRule := by
  intro wf mv s hrun
  rw [exec_gainSolve]
  exact ⟨amplitudeCommand_outOfRange hrun, amplitudeCommand_unknownWaveform hrun,
    fun hmv _ hk => amplitudeCommand_admitted hrun hmv (waveformOf_eq_some hk)⟩

/-- Settles O28: the two checks, then what the draws for the two writes allow: both complete, or a hang on either. -/
theorem ampApplyRule : Obligations.AmpApplyRule := by
  intro wf mv s hrun
  rw [exec_ampApply]
  refine ⟨amplitudeCommand_outOfRange hrun, amplitudeCommand_unknownWaveform hrun, fun hmv k r0 r1 hk htaps => ?_⟩
  rw [amplitudeCommand_admitted hrun hmv (waveformOf_eq_some hk), htaps]
  refine ⟨fun o0 o1 h0 h1 => ?completed, fun h0 => ?hangFirst, fun o0 h0 h1 => ?hangSecond⟩
  case completed =>
    rw [applyTaps_completed h0 h1, ← failures_eq_failed, ← failures_eq_failed, ← statusCode_transportStatus_add]
    rfl
  case hangFirst =>
    rw [applyTaps_hang_first h0]
    rfl
  case hangSecond =>
    rw [applyTaps_hang_second h0 h1]
    rfl

end Sys2Proof.Machine
end

section
/-!
PROOF. The potentiometer protocol (43_pot_protocol.md R180 to R187): the packed bytes in the statements' arithmetic (O29),
the triple check, then each command, one equation per branch (O31 to O33).
-/

namespace Sys2Proof.Machine

/-! ## The bytes -/

section
variable {a : BitVec 4} {c : BitVec 2} {d : BitVec 16}

/-- The command byte of a valid data value, as a number: `d[9]` is 0, so no bit of the data is cut off (R183). -/
theorem potByte1_toNat_of_le (hd : d.toNat ≤ 256) :
    (potByte1 a c d).toNat = a.toNat * 16 + c.toNat * 4 + d.toNat / 256 := by
  have two_bits : d.toNat / 256 % 4 = d.toNat / 256 := by omega
  rw [potByte1_toNat, two_bits]

/-- The command byte of a valid data value in the statements' arithmetic (R182). -/
theorem potByte1_eq_ofNat (hd : d.toNat ≤ 256) :
    potByte1 a c d = BitVec.ofNat 8 (a.toNat * 16 + c.toNat * 4 + d.toNat / 256) := by
  rw [← potByte1_toNat_of_le hd, BitVec.ofNat_toNat, BitVec.setWidth_eq]

/-- The data byte in the statements' arithmetic (R182). -/
theorem potByte2_eq_ofNat (d : BitVec 16) : potByte2 d = BitVec.ofNat 8 (d.toNat % 256) := by
  rw [← potByte2_toNat, BitVec.ofNat_toNat, BitVec.setWidth_eq]

/-- Data 0 is packed into the command byte alone (R183). -/
theorem potPack_zero (a : BitVec 4) (c : BitVec 2) :
    potPack a c 0 = [BitVec.ofNat 8 (a.toNat * 16 + c.toNat * 4)] := by
  rw [potPack, if_pos rfl, potByte1_eq_ofNat (by decide)]
  rfl

/-- Any other data is packed into both bytes (R183). -/
theorem potPack_of_ne_zero (h : d ≠ 0) : potPack a c d = [potByte1 a c d, potByte2 d] := if_neg h

/-- Settles O29: the data byte is omitted when the data is 0, and each byte is its number. -/
theorem potPackLayout : Obligations.PotPackLayout := by
  intro a c d hd
  refine ⟨fun zero => ?oneByte, fun nonzero => ?twoBytes⟩
  case oneByte => rw [zero, potPack_zero]
  case twoBytes => rw [potPack_of_ne_zero nonzero, potByte1_eq_ofNat hd, potByte2_eq_ofNat]

/-- The response to a valid triple: an omitted data byte reads as 0 there, which is what data 0 would have sent, so both
results have one formula (R184, R185). -/
theorem respondBytes_potPack (hd : d.toNat ≤ 256) (st : Status) (s : State) :
    respondBytes st (potPack a c d) s = respond st (BitVec.ofNat 16 (a.toNat * 16 + c.toNat * 4 + d.toNat / 256))
      (BitVec.ofNat 16 (d.toNat % 256)) (if d = 0 then 1 else 2) s := by
  rw [← potByte1_toNat_of_le hd, ← potByte2_toNat, BitVec.ofNat_toNat, BitVec.ofNat_toNat]
  by_cases zero : d = 0
  · subst zero
    rfl
  · rw [potPack_of_ne_zero zero, if_neg zero]
    rfl

/-! ## The triple check -/

/-- The known register addresses (R180). -/
theorem potAddrKnown_iff : ∀ {a : BitVec 4}, potAddrKnown a = true ↔ a.toNat ≤ 5 := by
  decide

/-- The valid triples (R180). -/
theorem potValid_iff : potValid a c d = true ↔ a.toNat ≤ 5 ∧ d.toNat ≤ 256 := by
  rw [potValid, Bool.and_eq_true, potAddrKnown_iff, decide_eq_true_iff]

/-- The invalid triples, as the statements name them (R181). -/
theorem not_potValid (h : 6 ≤ a.toNat ∨ 256 < d.toNat) : ¬ potValid a c d = true := by
  rw [potValid_iff]
  omega

end

/-! ## POT_PACK and POT_WRITE -/

section
variable {a : BitVec 4} {c : BitVec 2} {d : BitVec 16} {s : State}

/-- POT_PACK of an invalid triple (R184). -/
theorem execPotPack_rejected (hrun : s.run = .idle) (h : 6 ≤ a.toNat ∨ 256 < d.toNat) :
    execPotPack a c d s = .next (reject .unknownError s) := by
  rw [execPotPack, accept_idle hrun, if_neg (not_potValid h)]

/-- POT_PACK of a valid triple (R184). -/
theorem execPotPack_valid (hrun : s.run = .idle) (ha : a.toNat ≤ 5) (hd : d.toNat ≤ 256) :
    execPotPack a c d s = .next (respond .success (BitVec.ofNat 16 (a.toNat * 16 + c.toNat * 4 + d.toNat / 256))
      (BitVec.ofNat 16 (d.toNat % 256)) (if d = 0 then 1 else 2) s) := by
  rw [execPotPack, accept_idle hrun, if_pos (potValid_iff.2 ⟨ha, hd⟩), respondBytes_potPack hd]

/-- POT_WRITE of an invalid triple (R185). -/
theorem execPotWrite_rejected (hrun : s.run = .idle) (h : 6 ≤ a.toNat ∨ 256 < d.toNat) :
    execPotWrite a c d s = .next (reject .unknownError s) := by
  rw [execPotWrite, accept_idle hrun, if_neg (not_potValid h)]

/-- POT_WRITE whose write completes, with `Ok` or `Fail` (R185). -/
theorem execPotWrite_completed {o : Completion} (hrun : s.run = .idle) (ha : a.toNat ≤ 5) (hd : d.toNat ≤ 256)
    (h : (drawAt s 0).outcome = outcomeOf o) :
    execPotWrite a c d s = .next (respond (transportStatus (failures o))
      (BitVec.ofNat 16 (a.toNat * 16 + c.toNat * 4 + d.toNat / 256)) (BitVec.ofNat 16 (d.toNat % 256))
      (if d = 0 then 1 else 2) (countFailure o (afterEvents [.bWrite (potPack a c d) (some o)] s))) := by
  rw [execPotWrite, accept_idle hrun, if_pos (potValid_iff.2 ⟨ha, hd⟩), busBWrite_completed h,
    respondBytes_potPack hd, record_eq_afterEvents]

/-- POT_WRITE whose write hangs (R185). -/
theorem execPotWrite_hang (hrun : s.run = .idle) (ha : a.toNat ≤ 5) (hd : d.toNat ≤ 256)
    (h : (drawAt s 0).outcome = .hang) :
    execPotWrite a c d s = .next (hang (afterEvents [.bWrite (potPack a c d) none] s)) := by
  rw [execPotWrite, accept_idle hrun, if_pos (potValid_iff.2 ⟨ha, hd⟩), busBWrite_hang h, record_eq_afterEvents]

end

/-- Settles O31: one equation of POT_PACK for each side of the triple check. -/
theorem potPackRule : Obligations.PotPackRule := by
  intro a c d s hrun
  exact ⟨execPotPack_rejected hrun, execPotPack_valid hrun⟩

/-- Settles O32: the triple check, then the write's three outcomes. -/
theorem potWriteRule : Obligations.PotWriteRule := by
  intro a c d s hrun
  refine ⟨execPotWrite_rejected hrun, fun ha hd => ⟨?ok, ?fail, execPotWrite_hang hrun ha hd⟩⟩
  case ok => exact execPotWrite_completed (o := .ok) hrun ha hd
  case fail => exact execPotWrite_completed (o := .fail) hrun ha hd

/-! ## POT_READ -/

/-- How POT_READ ends once its read completes (R186, R187). -/
def finishPotRead (o : ReadCompletion) (s : State) : State :=
  match o with
  | .fail => potReadFailed s
  | .ok b0 b1 => respond .success (readResult b0 b1) 0 1 s

/-- What POT_READ does once its arming write completes: a failed one leaves the read out (R186). -/
def afterArming (o : Completion) (s : State) : State :=
  match o with
  | .fail => potReadFailed s
  | .ok => busBRead finishPotRead s

/-- The read result in the statements' arithmetic (R187). -/
theorem readResult_eq_ofNat (b0 b1 : Byte) : readResult b0 b1 = BitVec.ofNat 16 (b0.toNat * 256 + b1.toNat) := by
  rw [← readResult_toNat, BitVec.ofNat_toNat, BitVec.setWidth_eq]

section
variable {a : BitVec 4} {bytes : List Byte} {s : State}

/-- POT_READ of an unknown address (R186). -/
theorem execPotRead_rejected (hrun : s.run = .idle) (ha : 6 ≤ a.toNat) :
    execPotRead a s = .next (reject .unknownError s) := by
  rw [execPotRead, accept_idle hrun, if_neg (mt potAddrKnown_iff.1 (Nat.not_le.2 ha))]

/-- POT_READ of a known address writes the arming byte and goes on from there (R186). -/
theorem execPotRead_known (hrun : s.run = .idle) (ha : a.toNat ≤ 5) :
    execPotRead a s = .next (busBWrite [BitVec.ofNat 8 (a.toNat * 16 + 0x0C)] afterArming s) := by
  have arming : potPack a (potCommandCode .readData) 0 = [BitVec.ofNat 8 (a.toNat * 16 + 0x0C)] := potPack_zero a _
  rw [execPotRead, accept_idle hrun, if_pos (potAddrKnown_iff.2 ha), arming]
  rfl

/-- The arming write fails, and nothing is read (R186). -/
theorem busBWrite_afterArming_fail (h0 : (drawAt s 0).outcome = .fail) :
    busBWrite bytes afterArming s = potReadFailed (afterEvents [.bWrite bytes (some .fail)] s) := by
  rw [busBWrite_completed (c := .fail) h0, afterArming, record_eq_afterEvents]

/-- The arming write hangs, and nothing is read (R186). -/
theorem busBWrite_afterArming_hang (h0 : (drawAt s 0).outcome = .hang) :
    busBWrite bytes afterArming s = hang (afterEvents [.bWrite bytes none] s) := by
  rw [busBWrite_hang h0, record_eq_afterEvents]

/-- The arming write succeeds and the read returns its two bytes (R186, R187). -/
theorem busBWrite_afterArming_read_ok (h0 : (drawAt s 0).outcome = .ok) (h1 : (drawAt s 1).outcome = .ok) :
    busBWrite bytes afterArming s =
      respond .success (BitVec.ofNat 16 ((drawAt s 1).b0.toNat * 256 + (drawAt s 1).b1.toNat)) 0 1
        (afterEvents [.bWrite bytes (some .ok), .bRead (some (.ok (drawAt s 1).b0 (drawAt s 1).b1))] s) := by
  rw [busBWrite_completed (c := .ok) h0, afterArming, busBRead_ok (by rw [drawAt_record, h1]), finishPotRead,
    drawAt_record, record_record_eq_afterEvents, readResult_eq_ofNat]

/-- The arming write succeeds and the read fails (R186). -/
theorem busBWrite_afterArming_read_fail (h0 : (drawAt s 0).outcome = .ok) (h1 : (drawAt s 1).outcome = .fail) :
    busBWrite bytes afterArming s =
      potReadFailed (afterEvents [.bWrite bytes (some .ok), .bRead (some .fail)] s) := by
  rw [busBWrite_completed (c := .ok) h0, afterArming, busBRead_fail (by rw [drawAt_record, h1]), finishPotRead,
    record_record_eq_afterEvents]

/-- The arming write succeeds and the read hangs (R186). -/
theorem busBWrite_afterArming_read_hang (h0 : (drawAt s 0).outcome = .ok) (h1 : (drawAt s 1).outcome = .hang) :
    busBWrite bytes afterArming s = hang (afterEvents [.bWrite bytes (some .ok), .bRead none] s) := by
  rw [busBWrite_completed (c := .ok) h0, afterArming, busBRead_hang (by rw [drawAt_record, h1]),
    record_record_eq_afterEvents]

end

/-- Settles O33: the address check, then what the draws allow: the arming write fails or hangs, or it succeeds and the
read has its three outcomes. -/
theorem potReadRule : Obligations.PotReadRule := by
  rintro a s arming hrun rfl
  refine ⟨execPotRead_rejected hrun, fun ha => ?_⟩
  rw [exec, execPotRead_known hrun ha]
  exact ⟨fun h0 => congrArg Host.Outcome.next (busBWrite_afterArming_fail h0),
    fun h0 => congrArg Host.Outcome.next (busBWrite_afterArming_hang h0),
    fun h0 h1 => congrArg Host.Outcome.next (busBWrite_afterArming_read_ok h0 h1),
    fun h0 h1 => congrArg Host.Outcome.next (busBWrite_afterArming_read_fail h0 h1),
    fun h0 h1 => congrArg Host.Outcome.next (busBWrite_afterArming_read_hang h0 h1)⟩

end Sys2Proof.Machine
end

section
/-!
PROOF. The diagnostic command (44_diagnostic.md R200): the two halves of the zero-extended counter in the statement's
arithmetic, the zero high half of a counter of at most 16 bits (R92), and O34 from them.
-/

namespace Sys2Proof.Machine

/-- The low half of a number's 32-bit word (R200). -/
theorem lowHalf_ofNat (n : Nat) : (BitVec.ofNat 32 n).extractLsb' 0 16 = BitVec.ofNat 16 n := by
  apply BitVec.eq_of_toNat_eq
  simp only [BitVec.extractLsb'_toNat, BitVec.toNat_ofNat, Nat.shiftRight_zero]
  omega

/-- The high half of a number's 32-bit word (R200). -/
theorem highHalf_ofNat (n : Nat) : (BitVec.ofNat 32 n).extractLsb' 16 16 = BitVec.ofNat 16 (n / 65536) := by
  apply BitVec.eq_of_toNat_eq
  simp only [BitVec.extractLsb'_toNat, BitVec.toNat_ofNat, Nat.shiftRight_eq_div_pow]
  omega

/-- ERR_GET answers the counter's two halves and keeps everything else (R200). -/
theorem execErrGet_idle {s : State} (hrun : s.run = .idle) : execErrGet s =
    .next (respond .success (BitVec.ofNat 16 s.errcnt) (BitVec.ofNat 16 (s.errcnt / 65536)) 2 s) := by
  rw [← lowHalf_ofNat, ← highHalf_ofNat]
  exact accept_idle hrun

/-- A counter within a width of at most 16 bits has nothing above its low half (R92). -/
theorem errcnt_div_eq_zero {s : State} (inWidth : ErrcntInWidth s) (narrow : s.params.errcntWidth ≤ 16) :
    s.errcnt / 65536 = 0 :=
  Nat.div_eq_of_lt (inWidth.trans_le (Nat.pow_le_pow_right Nat.two_pos narrow))

/-- Settles O34: the answered halves, and the high one of a narrow counter. -/
theorem errGetRule : Obligations.ErrGetRule := by
  intro s hrun
  refine ⟨execErrGet_idle hrun, fun inWidth narrow => ?_⟩
  rw [errcnt_div_eq_zero inWidth narrow]
  rfl

end Sys2Proof.Machine
end

section
/-!
PROOF. Errors and statuses (60_exceptions.md R211 to R214): `CommandEnd` says once in which ways a command can end, by the
first check it fails (R212), with one lemma per command. How `ERRCNT` grows (O35) and which status wins (O36) are read off
it.
-/

namespace Sys2Proof.Machine

open Sys2Proof.Claims

/-! ## The ends of a command -/

/-- The command passes every check made before the bus (R212). -/
structure Admitted (i : Instr) : Prop where
  inRange : ¬ outOfRange i
  known : ¬ unknownWaveform i
  valid : ¬ invalidTriple i

/-- The command answered in `t` after the events `es`: the status says whether one drew `Fail` (R211), and each
that did is counted (R213). -/
structure AnsweredAfter (es : List Event) (s t : State) : Prop where
  run : t.run = s.run
  trace : t.trace = s.trace ++ es
  status : t.rspStatus = if failCount es = 0 then 0 else 1
  errcnt : ErrcntInWidth s → t.errcnt = (s.errcnt + failCount es) % 2 ^ s.params.errcntWidth

/-- The states a command accepted in `s` can end in (R212, R217). -/
inductive CommandEnd (i : Instr) (s : State) : State → Prop where
  | outOfRange (out : outOfRange i) : CommandEnd i s (reject .valueTooLarge s)
  | unknownWaveform (inRange : ¬ Claims.outOfRange i) (unknown : unknownWaveform i) : CommandEnd i s (rejectWaveform s)
  | invalidTriple (inRange : ¬ Claims.outOfRange i) (known : ¬ Claims.unknownWaveform i) (invalid : invalidTriple i) :
    CommandEnd i s (reject .unknownError s)
  | answered {es : List Event} {t : State} (admitted : Admitted i) (answer : AnsweredAfter es s t) : CommandEnd i s t
  | hung (admitted : Admitted i) (es : List Event) : CommandEnd i s (hang (afterEvents es s))

/-! ## Counting failed events -/

section
variable {o : Completion} {es : List Event}

/-- A completed bus-A word adds its failure to the count (R213). -/
theorem failCount_aWord_cons (w : Half) : failCount (.aWord w (some o) :: es) = failures o + failCount es := by
  cases o <;> rfl

/-- A completed bus-B write adds its failure to the count (R213). -/
theorem failCount_bWrite_cons (bytes : List Byte) :
    failCount (.bWrite bytes (some o) :: es) = failures o + failCount es := by
  cases o <;> rfl

end

/-- The status after the bus events is 0 or 1 (R211). -/
theorem statusCode_transportStatus (n : Nat) : statusCode (transportStatus n) = if n = 0 then 0 else 1 :=
  apply_ite statusCode (n = 0) .success .unknownError

/-! ## Answers -/

section
variable {s u : State} {es : List Event} {n : Nat} {r0 r1 : Half} {len : BitVec 2}

/-- A counter within its width is kept when nothing is added (R29). -/
theorem errcnt_add_zero_mod (inWidth : ErrcntInWidth s) : (s.errcnt + 0) % 2 ^ s.params.errcntWidth = s.errcnt :=
  Nat.mod_eq_of_lt inWidth

/-- A success answers events of which none failed, with `ERRCNT` as it was (R211, R213). -/
theorem answeredAfter_success (none_failed : failCount es = 0) (run : u.run = s.run) (trace : u.trace = s.trace ++ es)
    (errcnt : u.errcnt = s.errcnt) : AnsweredAfter es s (respond .success r0 r1 len u) where
  run := run
  trace := trace
  status := (if_pos none_failed).symm
  errcnt inWidth := by rw [respond_errcnt, errcnt, none_failed, errcnt_add_zero_mod inWidth]

/-- A success without a bus event. -/
theorem answeredAfter_nil : AnsweredAfter [] s (respond .success r0 r1 len s) :=
  answeredAfter_success rfl rfl (List.append_nil _).symm rfl

/-- A response that takes its status and its count from the failed events (R211, R213). -/
theorem answeredAfter_counted (failed : failCount es = n) :
    AnsweredAfter es s (respond (transportStatus n) r0 r1 len (countErrors n (afterEvents es s))) where
  run := rfl
  trace := rfl
  status := by rw [failed, respond_rspStatus, statusCode_transportStatus]
  errcnt _ := by rw [failed]; rfl

/-- A response after one event, whose failure is counted (R119, R185). -/
theorem answeredAfter_one {e : Event} {o : Completion} (failed : failCount [e] = failures o) :
    AnsweredAfter [e] s (respond (transportStatus (failures o)) r0 r1 len (countFailure o (record e s))) := by
  cases o with
  | ok => exact answeredAfter_success failed rfl rfl rfl
  | fail =>
    rw [record_eq_afterEvents]
    exact answeredAfter_counted failed

/-- A response after two events, whose failures are counted together (R117, R163). -/
theorem answeredAfter_two {e1 e2 : Event} (failed : failCount [e1, e2] = n) :
    AnsweredAfter [e1, e2] s
      (respond (transportStatus n) r0 r1 len (countErrors n (record e2 (record e1 s)))) := by
  rw [record_record_eq_afterEvents]
  exact answeredAfter_counted failed

end

/-! ## The checks, on the side the statements name -/

/-- A frequency is refused exactly when it is out of range (R112). -/
theorem freqAdmitted_eq_false_iff {hz : BitVec 24} : freqAdmitted hz = false ↔ 8000000 < hz.toNat :=
  decide_eq_false_iff_not.trans not_le

/-- A phase is refused exactly when it is out of range (R115). -/
theorem phaseAdmitted_eq_false_iff {deg : BitVec 16} : phaseAdmitted deg = false ↔ 360 < deg.toNat :=
  decide_eq_false_iff_not.trans not_le

/-- An amplitude is refused exactly when it is out of range (R160). -/
theorem ampAdmitted_eq_false_iff {mv : BitVec 16} : ampAdmitted mv = false ↔ 4000 < mv.toNat :=
  decide_eq_false_iff_not.trans not_le

/-- A code that names a waveform is known (R87). -/
theorem not_four_le_of_waveformOf {wf : BitVec 3} {k : Waveform} (h : waveformOf wf = some k) : ¬ 4 ≤ wf.toNat :=
  mt waveformOf_eq_none_iff.2 (by rw [h]; exact Option.some_ne_none k)

/-- A triple is refused exactly when it is invalid (R181). -/
theorem potValid_eq_false_iff {a : BitVec 4} {c : BitVec 2} {d : BitVec 16} :
    potValid a c d = false ↔ 6 ≤ a.toNat ∨ 256 < d.toNat := by
  rw [← Bool.not_eq_true, potValid_iff]
  omega

/-- An address is refused exactly when it is unknown (R181). -/
theorem potAddrKnown_eq_false_iff {a : BitVec 4} : potAddrKnown a = false ↔ 6 ≤ a.toNat := by
  rw [← Bool.not_eq_true, potAddrKnown_iff]
  omega

/-! ## The commands that use a bus -/

section
variable {i : Instr} {s t : State}

/-- A hang on the first event. -/
theorem commandEnd_hang_first (admitted : Admitted i) (e : Event) : CommandEnd i s (hang (record e s)) := by
  rw [record_eq_afterEvents]
  exact .hung admitted [e]

/-- A hang on the second event. -/
theorem commandEnd_hang_second (admitted : Admitted i) (e1 e2 : Event) :
    CommandEnd i s (hang (record e2 (record e1 s))) := by
  rw [record_record_eq_afterEvents]
  exact .hung admitted [e1, e2]

/-- The commit step (R130). -/
theorem commandEnd_ctlCommit (admitted : Admitted i) (n : Half) : CommandEnd i s (ctlCommit n s) := by
  rcases ctlCommit_cases n s with ⟨-, e⟩ | ⟨-, e⟩ | ⟨-, e⟩ <;> rw [e]
  · exact .answered admitted (answeredAfter_success (es := [.aWord n (some .ok)]) rfl rfl rfl rfl)
  · exact .answered admitted (answeredAfter_one (o := .fail) (failCount_aWord_cons n))
  · exact commandEnd_hang_first admitted _

/-- FREQ_LOAD (R117). -/
theorem execFreqLoad_end {hz : BitVec 24} (h : execFreqLoad hz s = .next t) : CommandEnd (.freqLoad hz) s t := by
  obtain ⟨-, ⟨refused, rfl⟩ | ⟨inRange, l, m, -, -, sent⟩⟩ := execFreqLoad_next h
  · exact .outOfRange (freqAdmitted_eq_false_iff.1 refused)
  have admitted : Admitted (.freqLoad hz) := ⟨(freqAdmitted_iff.1 inRange).not_gt, id, id⟩
  obtain ⟨o1, o2, -, -, rfl⟩ | ⟨o1, -, -, rfl⟩ | ⟨-, rfl⟩ := sent
  · exact .answered admitted (answeredAfter_two (by rw [failCount_aWord_cons, failCount_aWord_cons]; rfl))
  · exact commandEnd_hang_second admitted _ _
  · exact commandEnd_hang_first admitted _

/-- PHASE_LOAD (R119). -/
theorem execPhaseLoad_end {deg : BitVec 16} (h : execPhaseLoad deg s = .next t) : CommandEnd (.phaseLoad deg) s t := by
  obtain ⟨-, ⟨refused, rfl⟩ | ⟨inRange, sent⟩⟩ := execPhaseLoad_next h
  · exact .outOfRange (phaseAdmitted_eq_false_iff.1 refused)
  have admitted : Admitted (.phaseLoad deg) := ⟨(phaseAdmitted_iff.1 inRange).not_gt, id, id⟩
  obtain ⟨o, -, rfl⟩ | ⟨-, rfl⟩ := sent
  · exact .answered admitted (answeredAfter_one (failCount_aWord_cons _))
  · exact commandEnd_hang_first admitted _

/-- SET_WAVEFORM (R133). -/
theorem execSetWaveform_end {wf : BitVec 3} (h : execSetWaveform wf s = .next t) :
    CommandEnd (.setWaveform wf) s t := by
  obtain ⟨-, ⟨unknown, rfl⟩ | ⟨k, known, rfl⟩⟩ := execSetWaveform_next h
  · exact .unknownWaveform id (waveformOf_eq_none_iff.1 unknown)
  · have admitted : Admitted (.setWaveform wf) := ⟨id, not_four_le_of_waveformOf known, id⟩
    exact commandEnd_ctlCommit admitted _

/-- AMP_APPLY (R163). -/
theorem execAmpApply_end {wf : BitVec 3} {mv : BitVec 16} (h : execAmpApply wf mv s = .next t) :
    CommandEnd (.ampApply wf mv) s t := by
  obtain ⟨-, ⟨refused, rfl⟩ | ⟨inRange, unknown, rfl⟩ | ⟨inRange, k, taps, b0, b1, known, -, -, -, sent⟩⟩ :=
    execAmpApply_next h
  · exact .outOfRange (ampAdmitted_eq_false_iff.1 refused)
  · exact .unknownWaveform (ampAdmitted_iff.1 inRange).not_gt (waveformOf_eq_none_iff.1 unknown)
  have admitted : Admitted (.ampApply wf mv) :=
    ⟨(ampAdmitted_iff.1 inRange).not_gt, not_four_le_of_waveformOf known, id⟩
  obtain ⟨o0, o1, -, -, rfl⟩ | ⟨o0, -, -, rfl⟩ | ⟨-, rfl⟩ := sent
  · exact .answered admitted (answeredAfter_two (by rw [failCount_bWrite_cons, failCount_bWrite_cons]; rfl))
  · exact commandEnd_hang_second admitted _ _
  · exact commandEnd_hang_first admitted _

/-- POT_WRITE (R185). -/
theorem execPotWrite_end {a : BitVec 4} {c : BitVec 2} {d : BitVec 16} (h : execPotWrite a c d s = .next t) :
    CommandEnd (.potWrite a c d) s t := by
  obtain ⟨-, ⟨invalid, rfl⟩ | ⟨valid, sent⟩⟩ := execPotWrite_next h
  · exact .invalidTriple id id (potValid_eq_false_iff.1 invalid)
  have admitted : Admitted (.potWrite a c d) := ⟨id, id, fun invalid => not_potValid invalid valid⟩
  obtain ⟨o, -, rfl⟩ | ⟨-, rfl⟩ := sent
  · exact .answered admitted (answeredAfter_one (failCount_bWrite_cons _))
  · exact commandEnd_hang_first admitted _

/-- POT_READ: at most one of its events fails, since a failed arming write leaves the read out (R186). -/
theorem execPotRead_end {a : BitVec 4} (h : execPotRead a s = .next t) : CommandEnd (.potRead a) s t := by
  obtain ⟨-, ⟨unknown, rfl⟩ | ⟨known, arming, -, sent⟩⟩ := execPotRead_next h
  · exact .invalidTriple id id (potAddrKnown_eq_false_iff.1 unknown)
  have admitted : Admitted (.potRead a) :=
    ⟨id, id, fun invalid => nomatch known.symm.trans (potAddrKnown_eq_false_iff.2 invalid)⟩
  obtain ⟨-, rfl⟩ | ⟨-, rfl⟩ | ⟨-, ⟨-, rfl⟩ | ⟨-, rfl⟩ | ⟨-, b0, b1, -, -, rfl⟩⟩ := sent
  · exact commandEnd_hang_first admitted _
  · exact .answered admitted (answeredAfter_one (o := .fail) (failCount_bWrite_cons _))
  · exact commandEnd_hang_second admitted _ _
  · exact .answered admitted (answeredAfter_two (n := 1) (failCount_bWrite_cons _))
  · have none_failed : failCount [.bWrite arming (some .ok), .bRead (some (.ok b0 b1))] = 0 := failCount_bWrite_cons _
    exact .answered admitted (answeredAfter_success none_failed rfl (List.append_assoc _ _ _) rfl)

/-! ## Every command -/

/-- Every command that does not fault ends in one of these ways (R212, R217). -/
theorem exec_end {i : Instr} (h : exec i s = .next t) : CommandEnd i s t := by
  cases i with
  | freqEncode hz =>
    obtain ⟨-, ⟨refused, rfl⟩ | ⟨inRange, rfl⟩⟩ := execFreqEncode_next h
    · exact .outOfRange (freqAdmitted_eq_false_iff.1 refused)
    · exact .answered ⟨(freqAdmitted_iff.1 inRange).not_gt, id, id⟩ answeredAfter_nil
  | freqLoad hz => exact execFreqLoad_end h
  | phaseEncode deg =>
    obtain ⟨-, ⟨refused, rfl⟩ | ⟨inRange, rfl⟩⟩ := execPhaseEncode_next h
    · exact .outOfRange (phaseAdmitted_eq_false_iff.1 refused)
    · exact .answered ⟨(phaseAdmitted_iff.1 inRange).not_gt, id, id⟩ answeredAfter_nil
  | phaseLoad deg => exact execPhaseLoad_end h
  | ctrlGet =>
    obtain ⟨-, rfl⟩ := execCtrlGet_next h
    exact .answered ⟨id, id, id⟩ answeredAfter_nil
  | ctrlSync =>
    obtain ⟨-, rfl⟩ := execCtrlSync_next h
    exact commandEnd_ctlCommit ⟨id, id, id⟩ _
  | setWaveform wf => exact execSetWaveform_end h
  | setGate on =>
    obtain ⟨-, rfl⟩ := execSetGate_next h
    exact commandEnd_ctlCommit ⟨id, id, id⟩ _
  | ctrlReset =>
    obtain ⟨-, rfl⟩ := execCtrlReset_next h
    exact commandEnd_ctlCommit ⟨id, id, id⟩ _
  | gainSolve wf mv =>
    obtain ⟨-, ⟨refused, rfl⟩ | ⟨inRange, unknown, rfl⟩ | ⟨inRange, k, known, rfl⟩⟩ := execGainSolve_next h
    · exact .outOfRange (ampAdmitted_eq_false_iff.1 refused)
    · exact .unknownWaveform (ampAdmitted_iff.1 inRange).not_gt (waveformOf_eq_none_iff.1 unknown)
    · exact .answered ⟨(ampAdmitted_iff.1 inRange).not_gt, not_four_le_of_waveformOf known, id⟩ answeredAfter_nil
  | ampApply wf mv => exact execAmpApply_end h
  | potPack a c d =>
    obtain ⟨-, ⟨invalid, rfl⟩ | ⟨valid, rfl⟩⟩ := execPotPack_next h
    · exact .invalidTriple id id (potValid_eq_false_iff.1 invalid)
    · exact .answered ⟨id, id, fun invalid => not_potValid invalid valid⟩ answeredAfter_nil
  | potWrite a c d => exact execPotWrite_end h
  | potRead a => exact execPotRead_end h
  | errGet =>
    obtain ⟨-, rfl⟩ := execErrGet_next h
    exact .answered ⟨id, id, id⟩ answeredAfter_nil

/-- Only an idle block runs a command to a next state, since every command has to be accepted first (R215, R217). -/
theorem run_eq_idle_of_exec_next {i : Instr} (h : exec i s = .next t) : s.run = .idle := by
  cases i <;> rw [exec] at h <;> exact (accept_next_iff.1 h).1

/-- A legal word is run by the meaning of its command (R80). -/
theorem runCommand_of_decode_ok {w : Word} {i : Instr} (hdecode : decode w = .ok i) : runCommand w s = exec i s := by
  rw [runCommand, hdecode]

/-- An illegal word that ends was rejected by an idle block (R85, R86). -/
theorem runCommand_illegal_next {w : Word} {e : DecodeError} (hdecode : decode w = .error e)
    (h : runCommand w s = .next t) : s.run = .idle ∧ t = reject .otherError s := by
  rw [runCommand, hdecode] at h
  exact (accept_next_iff.1 h).imp_right Eq.symm

end

/-! ## The error counter -/

/-- A next state `t` whose events are recorded in the trace and counted in `ERRCNT` as far as they failed; a hang counts
nothing (R213). -/
def CountsEvents (s t : State) : Prop :=
  ∃ es, t.trace = s.trace ++ es ∧ (t.run = .hung → t.errcnt = s.errcnt) ∧
    (t.run = .idle → t.errcnt = (s.errcnt + failCount es) % 2 ^ s.params.errcntWidth)

section
variable {i : Instr} {s t : State}

/-- A rejection makes no event and counts nothing (R213). -/
theorem countsEvents_reject (inWidth : ErrcntInWidth s) (st : Status) : CountsEvents s (reject st s) :=
  ⟨[], (List.append_nil _).symm, fun _ => rfl, fun _ => (errcnt_add_zero_mod inWidth).symm⟩

/-- An unknown waveform code in range ends one way (R212). -/
theorem CommandEnd.eq_rejectWaveform (ending : CommandEnd i s t) (inRange : ¬ Claims.outOfRange i)
    (unknown : Claims.unknownWaveform i) : t = rejectWaveform s := by
  cases ending with
  | outOfRange out => exact absurd out inRange
  | unknownWaveform => rfl
  | invalidTriple _ known _ => exact absurd unknown known
  | answered admitted _ => exact absurd unknown admitted.known
  | hung admitted es => exact absurd unknown admitted.known

/-- Any other end counts its failed events (R213). -/
theorem CommandEnd.countsEvents (ending : CommandEnd i s t) (hrun : s.run = .idle) (inWidth : ErrcntInWidth s)
    (other : ¬ (¬ Claims.outOfRange i ∧ Claims.unknownWaveform i)) : CountsEvents s t := by
  cases ending with
  | outOfRange => exact countsEvents_reject inWidth _
  | unknownWaveform inRange unknown => exact absurd ⟨inRange, unknown⟩ other
  | invalidTriple => exact countsEvents_reject inWidth _
  | @answered es _ _ answer =>
    exact ⟨es, answer.trace, fun hung => absurd hung (by rw [answer.run, hrun]; exact nofun),
      fun _ => answer.errcnt inWidth⟩
  | hung _ es => exact ⟨es, rfl, fun _ => rfl, fun idle => nomatch idle⟩

/-- Settles O35: a word whose command has an unknown waveform code, with its operand in range, is counted without an event;
any other word, legal or not, counts its failed events. -/
theorem errorsAreCountedExactly : Obligations.ErrorsAreCountedExactly := by
  intro w s t inWidth h
  by_cases waveform : ∃ i, decode w = .ok i ∧ ¬ outOfRange i ∧ unknownWaveform i
  · obtain ⟨i, hdecode, inRange, unknown⟩ := waveform
    rw [runCommand_of_decode_ok hdecode] at h
    have hrun := run_eq_idle_of_exec_next h
    obtain rfl := (exec_end h).eq_rejectWaveform inRange unknown
    have not_hung : (rejectWaveform s).run ≠ .hung := fun hung => nomatch hrun.symm.trans hung
    exact ⟨[], (List.append_nil _).symm, fun hung => absurd hung not_hung,
      fun _ => ⟨fun _ => ⟨rfl, rfl⟩, fun other => absurd ⟨i, hdecode, inRange, unknown⟩ other⟩⟩
  · have counts : CountsEvents s t := by
      cases hdecode : decode w with
      | error e =>
        obtain ⟨-, rfl⟩ := runCommand_illegal_next hdecode h
        exact countsEvents_reject inWidth _
      | ok i =>
        rw [runCommand_of_decode_ok hdecode] at h
        exact (exec_end h).countsEvents (run_eq_idle_of_exec_next h) inWidth fun checks => waveform ⟨i, hdecode, checks⟩
    obtain ⟨es, trace, hung, idle⟩ := counts
    exact ⟨es, trace, hung, fun hrun => ⟨fun unknown => absurd unknown waveform, fun _ => idle hrun⟩⟩

/-! ## The status -/

/-- An operand out of range ends one way, whatever else is wrong (R212). -/
theorem CommandEnd.eq_reject_valueTooLarge (ending : CommandEnd i s t) (out : Claims.outOfRange i) :
    t = reject .valueTooLarge s := by
  cases ending with
  | outOfRange => rfl
  | unknownWaveform inRange _ => exact absurd out inRange
  | invalidTriple inRange _ _ => exact absurd out inRange
  | answered admitted _ => exact absurd out admitted.inRange
  | hung admitted es => exact absurd out admitted.inRange

/-- An invalid triple ends one way (R212). -/
theorem CommandEnd.eq_reject_unknownError (ending : CommandEnd i s t) (inRange : ¬ Claims.outOfRange i)
    (known : ¬ Claims.unknownWaveform i) (invalid : Claims.invalidTriple i) : t = reject .unknownError s := by
  cases ending with
  | outOfRange out => exact absurd out inRange
  | unknownWaveform _ unknown => exact absurd unknown known
  | invalidTriple => rfl
  | answered admitted _ => exact absurd invalid admitted.valid
  | hung admitted es => exact absurd invalid admitted.valid

/-- An admitted command that ends idle has answered (R211). -/
theorem CommandEnd.answeredAfter (ending : CommandEnd i s t) (admitted : Admitted i) (idle : t.run = .idle) :
    ∃ es, AnsweredAfter es s t := by
  cases ending with
  | outOfRange out => exact absurd out admitted.inRange
  | unknownWaveform _ unknown => exact absurd unknown admitted.known
  | invalidTriple _ _ invalid => exact absurd invalid admitted.valid
  | @answered es _ _ answer => exact ⟨es, answer⟩
  | hung _ es => exact nomatch idle

end

/-- Settles O36: one clause for each check in its order, then the answer of an admitted command. -/
theorem firstErrorWins : Obligations.FirstErrorWins := by
  intro w s t h
  refine ⟨fun e hdecode => ?illegal, fun i hdecode => ?legal⟩
  case illegal =>
    obtain ⟨hrun, rfl⟩ := runCommand_illegal_next hdecode h
    exact ⟨rfl, rfl, hrun⟩
  case legal =>
    rw [runCommand_of_decode_ok hdecode] at h
    have hrun := run_eq_idle_of_exec_next h
    have ending := exec_end h
    refine ⟨fun out => ?range, fun inRange bad => ?operand, fun inRange known valid idle => ?transport⟩
    case range =>
      obtain rfl := ending.eq_reject_valueTooLarge out
      exact ⟨rfl, rfl, hrun⟩
    case operand =>
      by_cases unknown : unknownWaveform i
      · obtain rfl := ending.eq_rejectWaveform inRange unknown
        exact ⟨rfl, rfl, hrun⟩
      · obtain rfl := ending.eq_reject_unknownError inRange unknown (bad.resolve_left unknown)
        exact ⟨rfl, rfl, hrun⟩
    case transport =>
      obtain ⟨es, answer⟩ := ending.answeredAfter ⟨inRange, known, valid⟩ idle
      exact ⟨es, answer.trace, answer.status⟩

end Sys2Proof.Machine
end

section
/-!
PROOF. Reset (70_reset_and_hazards.md R240): between commands or in the middle of one, a reset leaves the same block; only
how many bus answers were used up differs. O1 reads the table's values off it.
-/

namespace Sys2Proof.Machine

open Sys2Proof.Claims

/-- Reset between commands uses up no bus answer (R240). -/
theorem step_assertReset {s : State} {rest : List HostMove} (hhost : s.host = .assertReset :: rest) :
    step s = .next (resetBlock { s with host := rest }) := by
  simp only [step, sequencerStep, takeMove_cons hhost, takeHostMove]

/-- Reset while a command runs uses up at most the answers of the primitives that had started (R240; log entry 6). -/
theorem step_presentThenReset {s : State} {w : Word} {k : Nat} {rest : List HostMove}
    (hhost : s.host = .presentThenReset w k :: rest) :
    ∃ n, n ≤ k ∧ step s =
      .next { resetBlock { s with host := rest } with draws := s.draws.drop n, drawn := s.drawn + n } := by
  obtain ⟨n, hn, habandon⟩ := abandonCommand_eq k (runCommand w { s with host := rest }) { s with host := rest }
  refine ⟨n, hn, ?_⟩
  simp only [step, sequencerStep, takeMove_cons hhost, takeHostMove, habandon]

/-- Both moves that take a reset end in one reset block (R240): the answers left are all that tells them apart. -/
theorem step_of_reset {s : State} {m : HostMove} {rest : List HostMove} (hhost : s.host = m :: rest)
    (hreset : m = .assertReset ∨ ∃ w k, m = .presentThenReset w k) :
    ∃ n, step s =
      .next { resetBlock { s with host := rest } with draws := s.draws.drop n, drawn := s.drawn + n } := by
  obtain rfl | ⟨w, k, rfl⟩ := hreset
  · exact ⟨0, step_assertReset hhost⟩
  · obtain ⟨n, -, hstep⟩ := step_presentThenReset hhost
    exact ⟨n, hstep⟩

/-- Settles O1: the reset block, and the power-on state, hold the table's values by definition, the image of CTRL by
`ctrlResetValue_eq_add`. -/
theorem resetFromAnyState : Obligations.ResetFromAnyState := by
  refine ⟨fun s m rest hhost hreset => ?asserted, fun p => ?powerOn⟩
  case asserted =>
    obtain ⟨n, hstep⟩ := step_of_reset hhost hreset
    exact ⟨_, hstep, ctrlResetValue_eq_add s.params.gateBit, rfl, rfl, rfl, rfl, rfl, rfl, rfl⟩
  case powerOn => exact ⟨ctrlResetValue_eq_add p.gateBit, rfl, rfl, rfl, rfl, rfl, rfl, rfl⟩

end Sys2Proof.Machine
end

section
/-!
PROOF. Every command as a script of bus events. A script says which primitives a command makes and how it answers, and
reads nothing but the parameters, `CTRL` and `ERRCNT`; `exec_eq_accept_script` ties it to `exec` command by command, and
`Script.run_eq_conclude` runs it against the buses' answers. What holds of all commands alike is read off that form:
which commands are accepted (O4), when one completes (O5), what a hang leaves (O37), the frame (O39), and that neither
the response (O40) nor the trace (O41) is read.
-/

namespace Sys2Proof.Machine

/-! ## Scripts -/

/-- How a command answers: the image it stores and the errors it counts, if any, and its response. -/
structure Answer where
  store : Option Half := none
  count : Option Nat := none
  status : Status
  r0 : Half
  r1 : Half
  len : BitVec 2

/-- Write an answer to the registers. -/
def Answer.write (a : Answer) (s : State) : State :=
  { s with
    ctrl := a.store.getD s.ctrl
    errcnt := a.count.elim s.errcnt fun n => (s.errcnt + n) % 2 ^ s.params.errcntWidth
    rspStatus := statusCode a.status, rspR0 := a.r0, rspR1 := a.r1, rspLen := a.len }

/-- A command from here on: it answers, or it makes a bus primitive and goes on as the completion says. -/
inductive Script where
  | answer (a : Answer)
  | word (w : Half) (rest : Completion → Script)
  | write (bytes : List Byte) (rest : Completion → Script)
  | read (rest : ReadCompletion → Script)

/-- A script run by the model's own primitives. -/
def Script.run : Script → State → State
  | .answer a => a.write
  | .word w rest => busASend w fun o => (rest o).run
  | .write bytes rest => busBWrite bytes fun o => (rest o).run
  | .read rest => busBRead fun o => (rest o).run

/-- A rejection before the bus (R214). -/
def rejection (st : Status) : Script := .answer { status := st, r0 := 0, r1 := 0, len := 0 }

/-- A rejection that is counted (R133, R186). -/
def countedRejection : Script := .answer { count := some 1, status := .unknownError, r0 := 0, r1 := 0, len := 0 }

/-- The errors a command with one completed event counts (R213). -/
def countOf : Completion → Option Nat
  | .ok => none
  | .fail => some 1

/-- The commit step of an image (R130). -/
def commitScript (n : Half) : Script :=
  .word n fun
    | .ok => .answer { store := some n, status := .success, r0 := n, r1 := 0, len := 1 }
    | .fail => .answer { count := some 1, status := .unknownError, r0 := n, r1 := 0, len := 1 }

/-- The two words of a tuning word (R117). -/
def freqScript (tw : BitVec 28) : Script :=
  .word (lsbWord tw) fun o1 => .word (msbWord tw) fun o2 => .answer
    { count := some (failures o1 + failures o2), status := transportStatus (failures o1 + failures o2)
      r0 := msbWord tw, r1 := lsbWord tw, len := 2 }

/-- The phase word (R119). -/
def phaseScript (w : Half) : Script :=
  .word w fun o => .answer
    { count := countOf o, status := transportStatus (failures o), r0 := w, r1 := 0, len := 1 }

/-- The two wiper writes of a tap pair (R163, R164). -/
def tapsScript (taps : Nat × Nat) : Script :=
  .write (potPack wiper0Addr (potCommandCode .writeData) (BitVec.ofNat 16 taps.1)) fun o0 =>
    .write (potPack wiper1Addr (potCommandCode .writeData) (BitVec.ofNat 16 taps.2)) fun o1 => .answer
      { count := some (failures o0 + failures o1), status := transportStatus (failures o0 + failures o1)
        r0 := BitVec.ofNat 16 taps.1, r1 := BitVec.ofNat 16 taps.2, len := 2 }

/-- The answer with packed bytes (R92). -/
def bytesAnswer (count : Option Nat) (st : Status) (bytes : List Byte) : Script :=
  .answer
    { count := count, status := st, r0 := (bytes.getD 0 0).setWidth 16, r1 := (bytes.getD 1 0).setWidth 16
      len := BitVec.ofNat 2 bytes.length }

/-- How POT_READ answers once its read completes (R186, R187). -/
def readAnswer : ReadCompletion → Script
  | .fail => countedRejection
  | .ok b0 b1 => .answer { status := .success, r0 := readResult b0 b1, r1 := 0, len := 1 }

/-- The arming write and the read of POT_READ (R186). -/
def readScript (a : BitVec 4) : Script :=
  .write (potPack a (potCommandCode .readData) 0) fun
    | .fail => countedRejection
    | .ok => .read readAnswer

/-- The script of a command on a block with parameters `p`, image `c` and counter `n`. -/
def commandScript (i : Instr) (p : Params) (c : Half) (n : Nat) : Script :=
  match i with
  | .freqEncode hz =>
    if freqAdmitted hz then
      .answer { status := .success, r0 := msbWord (tuningWord p.clockHz hz.toNat)
                r1 := lsbWord (tuningWord p.clockHz hz.toNat), len := 2 }
    else rejection .valueTooLarge
  | .freqLoad hz =>
    if freqAdmitted hz then freqScript (tuningWord p.clockHz hz.toNat) else rejection .valueTooLarge
  | .phaseEncode deg =>
    if phaseAdmitted deg then .answer { status := .success, r0 := phaseWord deg.toNat, r1 := 0, len := 1 }
    else rejection .valueTooLarge
  | .phaseLoad deg => if phaseAdmitted deg then phaseScript (phaseWord deg.toNat) else rejection .valueTooLarge
  | .ctrlGet => .answer { status := .success, r0 := c, r1 := 0, len := 1 }
  | .ctrlSync => commitScript c
  | .setWaveform wf =>
    match waveformOf wf with
    | none => countedRejection
    | some k => commitScript (withWave c k)
  | .setGate on => commitScript (withGate p.gateBit c on)
  | .ctrlReset => commitScript (ctrlResetValue p.gateBit)
  | .gainSolve wf mv =>
    if ampAdmitted mv then
      match waveformOf wf with
      | none => countedRejection
      | some k =>
        .answer { status := .success, r0 := BitVec.ofNat 16 (solve p.potOhms mv.toNat k).1
                  r1 := BitVec.ofNat 16 (solve p.potOhms mv.toNat k).2, len := 2 }
    else rejection .valueTooLarge
  | .ampApply wf mv =>
    if ampAdmitted mv then
      match waveformOf wf with
      | none => countedRejection
      | some k => tapsScript (solve p.potOhms mv.toNat k)
    else rejection .valueTooLarge
  | .potPack a cmd d =>
    if potValid a cmd d then bytesAnswer none .success (potPack a cmd d) else rejection .unknownError
  | .potWrite a cmd d =>
    if potValid a cmd d then
      .write (potPack a cmd d) fun o => bytesAnswer (countOf o) (transportStatus (failures o)) (potPack a cmd d)
    else rejection .unknownError
  | .potRead a => if potAddrKnown a then readScript a else rejection .unknownError
  | .errGet =>
    .answer { status := .success, r0 := (BitVec.ofNat 32 n).extractLsb' 0 16
              r1 := (BitVec.ofNat 32 n).extractLsb' 16 16, len := 2 }

/-- The script of a command that is presented in `s`. -/
abbrev scriptIn (i : Instr) (s : State) : Script := commandScript i s.params s.ctrl s.errcnt

/-! ## Each command runs its script -/

/-- The commit step runs its script (R130). -/
theorem commitScript_run (n : Half) : (commitScript n).run = ctlCommit n :=
  congrArg (busASend n) (funext fun o => by cases o <;> rfl)

/-- A completed read ends POT_READ as its meaning does (R186). -/
theorem readAnswer_run (o : ReadCompletion) : (readAnswer o).run = finishPotRead o := by
  cases o <;> rfl

/-- The arming write and the read are those of POT_READ's meaning (R186). -/
theorem readScript_run (a : BitVec 4) :
    (readScript a).run = busBWrite (potPack a (potCommandCode .readData) 0) afterArming := by
  refine congrArg (busBWrite _) (funext fun o => ?_)
  cases o with
  | ok => exact congrArg busBRead (funext readAnswer_run)
  | fail => rfl

/-- POT_READ is its address check, then the arming write and what follows it (R186). -/
theorem exec_potRead (a : BitVec 4) :
    exec (.potRead a) = accept fun s =>
      if potAddrKnown a then busBWrite (potPack a (potCommandCode .readData) 0) afterArming s
      else reject .unknownError s := rfl

/-- Accepting depends on what the body does in this state alone. -/
theorem accept_congr {body body' : State → State} {s : State} (h : body s = body' s) :
    accept body s = accept body' s := by
  cases hrun : s.run with
  | idle => rw [accept_idle hrun, accept_idle hrun, h]
  | hung => rw [accept_hung hrun, accept_hung hrun]

/-- Every command is accepted like any other, and then runs its script. -/
theorem exec_eq_accept_script (i : Instr) (s : State) : exec i s = accept (scriptIn i s).run s := by
  cases i with
  | ctrlGet | errGet => rfl
  | ctrlSync | setGate _ | ctrlReset => exact accept_congr (congrFun (commitScript_run _) s).symm
  | freqEncode _ | freqLoad _ | phaseEncode _ | potPack _ _ _ =>
    simp only [exec, execFreqEncode, execFreqLoad, execPhaseEncode, execPotPack, scriptIn, commandScript]
    refine accept_congr ?_
    split <;> rfl
  | phaseLoad deg =>
    rw [exec, execPhaseLoad, scriptIn, commandScript]
    refine accept_congr ?_
    split
    · exact congrFun (congrArg (busASend _) (funext fun o => by cases o <;> rfl)) s
    · rfl
  | setWaveform wf =>
    rw [exec, execSetWaveform, scriptIn, commandScript]
    refine accept_congr ?_
    cases waveformOf wf with
    | none => rfl
    | some k => exact (congrFun (commitScript_run _) s).symm
  | gainSolve wf mv =>
    rw [exec_gainSolve, amplitudeCommand, scriptIn, commandScript]
    refine accept_congr ?_
    cases waveformOf wf <;> split <;> rfl
  | ampApply wf mv =>
    rw [exec_ampApply, amplitudeCommand, scriptIn, commandScript]
    refine accept_congr ?_
    cases waveformOf wf <;> split <;> rfl
  | potWrite a c d =>
    rw [exec, execPotWrite, scriptIn, commandScript]
    refine accept_congr ?_
    split
    · exact congrFun (congrArg (busBWrite _) (funext fun o => by cases o <;> rfl)) s
    · rfl
  | potRead a =>
    rw [exec_potRead, scriptIn, commandScript]
    refine accept_congr ?_
    split
    · rw [readScript_run]
    · rfl

/-! ## Scripts against the buses' answers -/

/-- What a script comes to: its events, and its answer unless it hung. -/
structure Played where
  events : List Event
  ending : Option Answer

/-- A primitive's event `e`, then what `next` comes to, unless the primitive hung. -/
def Played.cons {γ : Type} (e : Option γ → Event) (next : γ → Played) : Option γ → Played
  | some o => ⟨e (some o) :: (next o).events, (next o).ending⟩
  | none => ⟨[e none], none⟩

/-- How a bus-A word or a bus-B write completes; `none` is a hang (R12). -/
def completionOf (d : Draw) : Option Completion :=
  match d.outcome with
  | .ok => some .ok
  | .fail => some .fail
  | .hang => none

/-- How a bus-B read completes; `none` is a hang (R12, R58). -/
def readCompletionOf (d : Draw) : Option ReadCompletion :=
  match d.outcome with
  | .ok => some (.ok d.b0 d.b1)
  | .fail => some .fail
  | .hang => none

/-- What a script comes to when the buses answer its `k`-th primitive with `draw k`. -/
def Script.play : Script → (Nat → Draw) → Played
  | .answer a, _ => ⟨[], some a⟩
  | .word w rest, draw => .cons (.aWord w) (fun o => (rest o).play (draw ∘ Nat.succ)) (completionOf (draw 0))
  | .write bytes rest, draw => .cons (.bWrite bytes) (fun o => (rest o).play (draw ∘ Nat.succ)) (completionOf (draw 0))
  | .read rest, draw => .cons .bRead (fun o => (rest o).play (draw ∘ Nat.succ)) (readCompletionOf (draw 0))

/-- Where a command ends that came to `p`: its events are recorded, then it answers or hangs. -/
def Played.conclude (p : Played) (s : State) : State :=
  match p.ending with
  | some a => a.write (afterEvents p.events s)
  | none => hang (afterEvents p.events s)

section
variable {s : State}

/-- After one event the next primitive gets the next answer. -/
theorem drawAt_record_eq_comp (e : Event) : drawAt (record e s) = drawAt s ∘ Nat.succ := funext (drawAt_record e s)

/-- Recording the first event and then concluding with the others records them all. -/
theorem conclude_record {γ : Type} {e : Option γ → Event} {next : γ → Played} {o : γ} :
    (next o).conclude (record (e (some o)) s) = (Played.cons e next (some o)).conclude s := by
  rw [Played.conclude, record_eq_afterEvents, afterEvents_append]
  rfl

/-- A bus-A word and its completion (R12, R51). -/
theorem busASend_eq {w : Half} {rest : Completion → State → State} : busASend w rest s =
    (completionOf (drawAt s 0)).elim (hang (record (.aWord w none) s))
      fun o => rest o (record (.aWord w (some o)) s) := by
  rw [busASend, completionOf]
  cases (drawAt s 0).outcome <;> rfl

/-- A bus-B write and its completion (R12, R55). -/
theorem busBWrite_eq {bytes : List Byte} {rest : Completion → State → State} : busBWrite bytes rest s =
    (completionOf (drawAt s 0)).elim (hang (record (.bWrite bytes none) s))
      fun o => rest o (record (.bWrite bytes (some o)) s) := by
  rw [busBWrite, completionOf]
  cases (drawAt s 0).outcome <;> rfl

/-- A bus-B read and its completion (R12, R55). -/
theorem busBRead_eq {rest : ReadCompletion → State → State} : busBRead rest s =
    (readCompletionOf (drawAt s 0)).elim (hang (record (.bRead none) s))
      fun o => rest o (record (.bRead (some o)) s) := by
  rw [busBRead, readCompletionOf]
  cases (drawAt s 0).outcome <;> rfl

/-- A primitive whose completions go on as `next` says concludes as `Played.cons` does. -/
theorem conclude_cons {γ : Type} {e : Option γ → Event} {next : γ → Played} {rest : γ → State → State}
    (h : ∀ o, rest o (record (e (some o)) s) = (next o).conclude (record (e (some o)) s)) (c : Option γ) :
    c.elim (hang (record (e none) s)) (fun o => rest o (record (e (some o)) s)) =
      (Played.cons e next c).conclude s := by
  cases c with
  | some o => exact (h o).trans conclude_record
  | none => exact congrArg hang (record_eq_afterEvents _ s)

end

/-- Running a script concludes with what it comes to against the state's answers. -/
theorem Script.run_eq_conclude (sc : Script) (s : State) : sc.run s = (sc.play (drawAt s)).conclude s := by
  induction sc generalizing s with
  | answer a => exact congrArg a.write (afterEvents_nil s).symm
  | word w rest ih =>
    rw [run, busASend_eq]
    exact conclude_cons (fun o => (ih o _).trans (by rw [drawAt_record_eq_comp])) _
  | write bytes rest ih =>
    rw [run, busBWrite_eq]
    exact conclude_cons (fun o => (ih o _).trans (by rw [drawAt_record_eq_comp])) _
  | read rest ih =>
    rw [run, busBRead_eq]
    exact conclude_cons (fun o => (ih o _).trans (by rw [drawAt_record_eq_comp])) _

/-- What a command comes to that is presented in `s`. -/
abbrev playIn (i : Instr) (s : State) : Played := (scriptIn i s).play (drawAt s)

/-- A command ends in a next state exactly on an idle block, and concludes with what its script comes to. -/
theorem exec_next_iff {i : Instr} {s t : State} : exec i s = .next t ↔ s.run = .idle ∧ (playIn i s).conclude s = t := by
  rw [exec_eq_accept_script, accept_next_iff, Script.run_eq_conclude]

/-! ## Acceptance -/

section
variable {s : State}

/-- A hung block accepts no command (R217). -/
theorem exec_hung (i : Instr) (hrun : s.run = .hung) : exec i s = .fault .hung := by
  rw [exec_eq_accept_script, accept_hung hrun]

/-- An idle block accepts every command (R215). -/
theorem exec_idle (i : Instr) (hrun : s.run = .idle) : exec i s = .next ((playIn i s).conclude s) :=
  exec_next_iff.2 ⟨hrun, rfl⟩

/-- A hung block accepts no word, legal or not (R217). -/
theorem runCommand_hung (w : Word) (hrun : s.run = .hung) : runCommand w s = .fault .hung := by
  rw [runCommand]
  cases decode w with
  | ok i => exact exec_hung i hrun
  | error e => exact accept_hung hrun

/-- A step runs the word the host presents (R80). -/
theorem step_present {w : Word} {rest : List HostMove} (hhost : s.host = .present w :: rest) :
    step s = runCommand w { s with host := rest } := by
  simp only [step, sequencerStep, takeMove_cons hhost, takeHostMove]

/-- Settles O4: a hung block accepts neither a command nor a word, an idle one every command. -/
theorem hungBlockAcceptsNothing : Obligations.HungBlockAcceptsNothing := by
  refine ⟨fun i s hrun => exec_hung i hrun, fun s w rest hrun hhost => ?_, fun i s hrun => ⟨_, exec_idle i hrun⟩⟩
  rw [step_present hhost]
  exact runCommand_hung w hrun

end

/-! ## What no command reads -/

/-- Settles O40: a script does not depend on the response registers, an answer overwrites them, and a hang keeps
them. -/
theorem noCommandReadsTheResponse : Obligations.NoCommandReadsTheResponse := by
  intro i s t st r0 r1 len h
  obtain ⟨hrun, rfl⟩ := exec_next_iff.1 h
  refine exec_next_iff.2 ⟨hrun, ?_⟩
  show (playIn i s).conclude _ = _
  rw [Played.conclude, Played.conclude]
  cases (playIn i s).ending with
  | some a => exact (if_pos hrun).symm
  | none => exact (if_neg nofun).symm

/-- Settles O41: a script does not depend on the trace, and its events go after it. -/
theorem noCommandReadsTheTrace : Obligations.NoCommandReadsTheTrace := by
  intro i s t earlier h
  obtain ⟨hrun, rfl⟩ := exec_next_iff.1 h
  refine exec_next_iff.2 ⟨hrun, ?_⟩
  show (playIn i { s with trace := [] }).conclude _ = _
  rw [Played.conclude, Played.conclude]
  cases (playIn i { s with trace := [] }).ending with
  | some a => rfl
  | none => rfl

/-! ## The frame -/

section
variable (p : Played) (s : State)

@[simp] theorem conclude_params : (p.conclude s).params = s.params := by
  rw [Played.conclude]; cases p.ending <;> rfl

@[simp] theorem conclude_host : (p.conclude s).host = s.host := by
  rw [Played.conclude]; cases p.ending <;> rfl

@[simp] theorem conclude_trace : (p.conclude s).trace = s.trace ++ p.events := by
  rw [Played.conclude]; cases p.ending <;> rfl

@[simp] theorem conclude_draws : (p.conclude s).draws = s.draws.drop p.events.length := by
  rw [Played.conclude]; cases p.ending <;> rfl

@[simp] theorem conclude_drawn : (p.conclude s).drawn = s.drawn + p.events.length := by
  rw [Played.conclude]; cases p.ending <;> rfl

end

/-- The command hung exactly when its script has no answer. -/
theorem conclude_run_eq_hung_iff {p : Played} {s : State} (hrun : s.run = .idle) :
    (p.conclude s).run = .hung ↔ p.ending = none := by
  rw [Played.conclude]
  cases p.ending with
  | some a => exact ⟨fun hung => (nomatch hrun.symm.trans hung), nofun⟩
  | none => exact ⟨fun _ => rfl, fun _ => rfl⟩

/-! ## Completed and unfinished events -/

/-- With an answer, every event has completed; without one, the last event is the only one that has not, and its
primitive drew `Hang` (R31, R217). -/
def Played.Settled (draw : Nat → Draw) (p : Played) : Prop :=
  match p.ending with
  | some _ => p.events.all eventCompleted = true
  | none => ∃ es e, p.events = es ++ [e] ∧ es.all eventCompleted = true ∧ eventCompleted e = false ∧
      (draw es.length).outcome = .hang

/-- A completed first event before settled ones, or an unfinished one that drew `Hang`. -/
theorem settled_cons {γ : Type} {e : Option γ → Event} {next : γ → Played} {draw : Nat → Draw} {c : Option γ}
    (completed : ∀ o, eventCompleted (e (some o)) = true) (unfinished : eventCompleted (e none) = false)
    (hang : c = none → (draw 0).outcome = .hang) (ih : ∀ o, (next o).Settled (draw ∘ Nat.succ)) :
    (Played.cons e next c).Settled draw := by
  cases c with
  | none => exact ⟨[], e none, rfl, rfl, unfinished, hang rfl⟩
  | some o =>
    have later := ih o
    unfold Played.Settled at later ⊢
    simp only [Played.cons]
    split at later
    · rw [List.all_cons, completed, later, Bool.and_self]
    · obtain ⟨es, last, events, all, not_completed, drew⟩ := later
      exact ⟨e (some o) :: es, last, congrArg _ events, by rw [List.all_cons, completed, all, Bool.and_self],
        not_completed, drew⟩

/-- A bus-A word or a bus-B write that does not complete drew `Hang` (R12). -/
theorem outcome_eq_hang_of_completionOf {d : Draw} (h : completionOf d = none) : d.outcome = .hang := by
  cases outcome : d.outcome with
  | hang => rfl
  | ok | fail => simp [completionOf, outcome] at h

/-- A bus-B read that does not complete drew `Hang` (R12). -/
theorem outcome_eq_hang_of_readCompletionOf {d : Draw} (h : readCompletionOf d = none) : d.outcome = .hang := by
  cases outcome : d.outcome with
  | hang => rfl
  | ok | fail => simp [readCompletionOf, outcome] at h

/-- Every script is settled, whatever the buses answer. -/
theorem play_settled (sc : Script) (draw : Nat → Draw) : (sc.play draw).Settled draw := by
  induction sc generalizing draw with
  | answer a => rfl
  | word w rest ih => exact settled_cons (fun _ => rfl) rfl outcome_eq_hang_of_completionOf fun o => ih o _
  | write bytes rest ih => exact settled_cons (fun _ => rfl) rfl outcome_eq_hang_of_completionOf fun o => ih o _
  | read rest ih => exact settled_cons (fun _ => rfl) rfl outcome_eq_hang_of_readCompletionOf fun o => ih o _

/-- A script with an answer has completed events only. -/
theorem play_completed {sc : Script} {draw : Nat → Draw} {a : Answer} (h : (sc.play draw).ending = some a) :
    (sc.play draw).events.all eventCompleted = true := by
  have settled := play_settled sc draw
  rwa [Played.Settled, h] at settled

/-- A script without an answer ends with the one event that has not completed. -/
theorem play_unfinished {sc : Script} {draw : Nat → Draw} (h : (sc.play draw).ending = none) :
    ∃ es e, (sc.play draw).events = es ++ [e] ∧ es.all eventCompleted = true ∧ eventCompleted e = false ∧
      (draw es.length).outcome = .hang := by
  have settled := play_settled sc draw
  rwa [Played.Settled, h] at settled

/-- Settles O37: a script that hangs concludes with `RUN` alone written, and a hung block runs no command. -/
theorem hangWritesNoRegister : Obligations.HangWritesNoRegister := by
  intro i s t h hung
  obtain ⟨hrun, rfl⟩ := exec_next_iff.1 h
  have no_answer : (playIn i s).ending = none := (conclude_run_eq_hung_iff hrun).1 hung
  have no_command : ∀ j u, exec j ((playIn i s).conclude s) ≠ .next u := fun j u next =>
    nomatch (exec_hung j hung).symm.trans next
  obtain ⟨es, e, events, completed, unfinished, drew⟩ := play_unfinished no_answer
  have ended : (playIn i s).conclude s = hang (afterEvents (es ++ [e]) s) := by
    rw [Played.conclude, no_answer, events]
  rw [ended] at no_command ⊢
  exact ⟨rfl, rfl, rfl, rfl, rfl, rfl, no_command, es, e, (List.append_assoc _ _ _).symm, completed, unfinished, drew⟩

/-! ## The events of each command -/

/-- The lists of events a command can make; `image` is the control image it commits, if it commits one. -/
inductive Emits (image : Option Half) : List Event → Prop where
  | nothing : Emits image []
  | control {n : Half} (h : image = some n) (o : Option Completion) : Emits image [.aWord n o]
  | phase (deg : Nat) (o : Option Completion) : Emits image [.aWord (phaseWord deg) o]
  | freqHalf (tw : BitVec 28) : Emits image [.aWord (lsbWord tw) none]
  | freqPair (tw : BitVec 28) (o1 : Completion) (o2 : Option Completion) :
    Emits image [.aWord (lsbWord tw) (some o1), .aWord (msbWord tw) o2]
  | pot {a : BitVec 4} {c : BitVec 2} {d : BitVec 16} (h : potValid a c d = true) (o : Option Completion) :
    Emits image [.bWrite (potPack a c d) o]
  | taps {a a' : BitVec 4} {c c' : BitVec 2} {d d' : BitVec 16} (h : potValid a c d = true)
    (h' : potValid a' c' d' = true) (o : Completion) (o' : Option Completion) :
    Emits image [.bWrite (potPack a c d) (some o), .bWrite (potPack a' c' d') o']
  | armedRead {a : BitVec 4} (h : potAddrKnown a = true) (o : Option ReadCompletion) :
    Emits image [.bWrite (potPack a (potCommandCode .readData) 0) (some .ok), .bRead o]

/-- A word with an answer after it is the only event. -/
theorem play_word_answer (w : Half) (f : Completion → Answer) (draw : Nat → Draw) :
    ((Script.word w fun o => .answer (f o)).play draw).events = [.aWord w (completionOf (draw 0))] := by
  rw [Script.play]
  cases completionOf (draw 0) <;> rfl

/-- A write with an answer after it is the only event. -/
theorem play_write_answer (bytes : List Byte) (f : Completion → Answer) (draw : Nat → Draw) :
    ((Script.write bytes fun o => .answer (f o)).play draw).events = [.bWrite bytes (completionOf (draw 0))] := by
  rw [Script.play]
  cases completionOf (draw 0) <;> rfl

section
variable {image : Option Half} (draw : Nat → Draw)

/-- The commit step sends its image (R130). -/
theorem commitScript_emits (n : Half) : Emits (some n) ((commitScript n).play draw).events := by
  have sent : ((commitScript n).play draw).events = [.aWord n (completionOf (draw 0))] := by
    rw [commitScript, Script.play]
    rcases completionOf (draw 0) with _ | _ | _ <;> rfl
  rw [sent]
  exact .control rfl _

/-- FREQ_LOAD sends both words, unless the first one hangs (R117). -/
theorem freqScript_emits (tw : BitVec 28) : Emits image ((freqScript tw).play draw).events := by
  rw [freqScript, Script.play]
  cases completionOf (draw 0) with
  | none => exact .freqHalf tw
  | some o =>
    rw [Played.cons, play_word_answer]
    exact .freqPair tw o _

/-- PHASE_LOAD sends its word (R119). -/
theorem phaseScript_emits (deg : Nat) : Emits image ((phaseScript (phaseWord deg)).play draw).events := by
  rw [phaseScript, play_word_answer]
  exact .phase deg _

/-- Tap counts are valid data for a wiper (R164). -/
theorem potValid_ofNat {a : BitVec 4} {c : BitVec 2} {n : Nat} (ha : a.toNat ≤ 5) (hn : n ≤ 256) :
    potValid a c (BitVec.ofNat 16 n) = true := by
  refine potValid_iff.2 ⟨ha, ?_⟩
  rw [BitVec.toNat_ofNat]
  exact (Nat.mod_le _ _).trans hn

/-- AMP_APPLY writes both wipers, unless the first write hangs (R163). -/
theorem tapsScript_emits {taps : Nat × Nat} (h : taps.1 ≤ 256 ∧ taps.2 ≤ 256) :
    Emits image ((tapsScript taps).play draw).events := by
  have valid0 := potValid_ofNat (a := wiper0Addr) (c := potCommandCode .writeData) (by decide) h.1
  have valid1 := potValid_ofNat (a := wiper1Addr) (c := potCommandCode .writeData) (by decide) h.2
  rw [tapsScript, Script.play]
  cases completionOf (draw 0) with
  | none => exact .pot valid0 none
  | some o =>
    rw [Played.cons, play_write_answer]
    exact .taps valid0 valid1 o _

/-- POT_READ makes its arming write, and the read if that succeeded (R186). -/
theorem readScript_emits {a : BitVec 4} (known : potAddrKnown a = true) :
    Emits image ((readScript a).play draw).events := by
  have valid : potValid a (potCommandCode .readData) 0 = true :=
    potValid_iff.2 ⟨potAddrKnown_iff.1 known, Nat.zero_le _⟩
  rw [readScript, Script.play]
  rcases completionOf (draw 0) with _ | _ | _
  · exact .pot valid none
  · rw [Played.cons, Script.play]
    rcases readCompletionOf _ with _ | _ | _ <;> exact .armedRead known _
  · exact .pot valid (some .fail)

end

/-- Every command makes one of these lists of events. -/
theorem playIn_emits (i : Instr) (s : State) : Emits (commandImage i s) (playIn i s).events := by
  rw [playIn, scriptIn]
  cases i with
  | ctrlGet | errGet => exact .nothing
  | freqEncode _ | phaseEncode _ | potPack _ _ _ =>
    rw [commandScript]
    split <;> exact .nothing
  | freqLoad hz =>
    rw [commandScript]
    split
    · exact freqScript_emits _ _
    · exact .nothing
  | phaseLoad deg =>
    rw [commandScript]
    split
    · exact phaseScript_emits _ _
    · exact .nothing
  | ctrlSync | setGate _ | ctrlReset => exact commitScript_emits _ _
  | setWaveform wf =>
    rw [commandScript, commandImage]
    cases waveformOf wf with
    | none => exact .nothing
    | some k => exact commitScript_emits _ _
  | gainSolve wf mv =>
    rw [commandScript]
    cases waveformOf wf <;> split <;> exact .nothing
  | ampApply wf mv =>
    rw [commandScript]
    cases waveformOf wf with
    | none => split <;> exact .nothing
    | some k =>
      split
      · exact tapsScript_emits _ (solve_le_tapMax _ _ _)
      · exact .nothing
  | potWrite a c d =>
    rw [commandScript]
    split
    case isTrue valid =>
      simp only [bytesAnswer, play_write_answer]
      exact .pot valid _
    · exact .nothing
  | potRead a =>
    rw [commandScript]
    split
    case isTrue known => exact readScript_emits _ known
    · exact .nothing

/-- None of these lists has more than two events (R117, R163, R186). -/
theorem Emits.length_le {image : Option Half} {es : List Event} (h : Emits image es) : es.length ≤ 2 := by
  cases h <;> simp only [List.length_cons, List.length_nil] <;> decide

/-- A command makes at most two events. -/
theorem playIn_events_length (i : Instr) (s : State) : (playIn i s).events.length ≤ 2 := (playIn_emits i s).length_le

/-- Settles O39: the frame of what a command comes to. -/
theorem commandsOnlyAppendToTrace : Obligations.CommandsOnlyAppendToTrace := by
  intro i s t h
  obtain ⟨-, rfl⟩ := exec_next_iff.1 h
  exact ⟨(playIn i s).events, playIn_events_length i s, conclude_trace _ _, conclude_draws _ _, conclude_drawn _ _,
    conclude_params _ _, conclude_host _ _⟩

/-- Settles O5: a hang would be on the first or the second of at most two events. -/
theorem commandCompletesWithoutHang : Obligations.CommandCompletesWithoutHang := by
  intro i s hrun first second
  refine ⟨_, exec_idle i hrun, ?_⟩
  cases run : ((playIn i s).conclude s).run with
  | idle => rfl
  | hung =>
    obtain ⟨es, e, events, -, -, drew⟩ := play_unfinished ((conclude_run_eq_hung_iff hrun).1 run)
    have short : es.length < 2 := by simpa [events] using playIn_events_length i s
    interval_cases es.length
    · exact absurd drew first
    · exact absurd drew second

end Sys2Proof.Machine
end

section
/-!
PROOF. The codec of the command words (30_encoding.md R80 to R86): a word is cut into the slices its format names. A
slice of an encoding gives its field back (O6), and the slices of a legal word, put back in their places, make up the
word, since the opcode, the fields and the reserved bits cover it (O7). Then the examples of R93 (O8, O49).
-/

namespace Sys2Proof

open Sys2Proof.Laws.TableRow (rowMask rowMatch)

/-! ## Slices of a word -/

section
variable {k : Nat} (x : BitVec k) (w : Word)

/-- The slice at a field's own place is the field. -/
theorem extractLsb'_shiftLeft_same {lo : Nat} (fits : lo + k ≤ 32) : (x.setWidth 32 <<< lo).extractLsb' lo k = x := by
  refine BitVec.eq_of_getLsbD_eq fun j hj => ?_
  have inWord : lo + j < 32 := by omega
  simp [hj, inWord]

/-- A slice elsewhere has nothing of the field. -/
theorem extractLsb'_shiftLeft_apart {lo lo' k' : Nat} (apart : lo' + k' ≤ lo ∨ lo + k ≤ lo') :
    (x.setWidth 32 <<< lo).extractLsb' lo' k' = 0 := by
  refine BitVec.eq_of_getLsbD_eq fun j hj => ?_
  have outside : ¬ lo ≤ lo' + j ∨ k ≤ lo' + j - lo := by omega
  rcases outside with below | above
  · simp [below]
  · simp [BitVec.getLsbD_of_ge x _ above]

/-- The slice at the place of the lowest field is that field. -/
theorem extractLsb'_setWidth_same (fits : k ≤ 32) : (x.setWidth 32).extractLsb' 0 k = x := by
  simpa using extractLsb'_shiftLeft_same x (lo := 0) (by omega)

/-- A slice above the lowest field has nothing of it. -/
theorem extractLsb'_setWidth_above {lo' k' : Nat} (above : k ≤ lo') : (x.setWidth 32).extractLsb' lo' k' = 0 := by
  simpa using extractLsb'_shiftLeft_apart x (lo := 0) (k' := k') (.inr (by omega))

/-- A slice put back in its place is the word under the slice's mask. -/
theorem setWidth_extractLsb'_shiftLeft (lo k : Nat) :
    (w.extractLsb' lo k).setWidth 32 <<< lo = w &&& (BitVec.ofNat 32 (2 ^ k - 1)) <<< lo := by
  refine BitVec.eq_of_getLsbD_eq fun j hj => ?_
  by_cases below : j < lo
  · simp [below]
  · have same_bit : lo + (j - lo) = j := by omega
    have in_word : j - lo < 32 := by omega
    have mask_bit : (BitVec.ofNat 32 (2 ^ k - 1)).getLsbD (j - lo) = decide (j - lo < k) := by
      rw [BitVec.getLsbD_ofNat, Nat.testBit_two_pow_sub_one, decide_eq_true in_word, Bool.true_and]
    rw [BitVec.getLsbD_shiftLeft, BitVec.getLsbD_setWidth, BitVec.getLsbD_extractLsb', BitVec.getLsbD_and,
      BitVec.getLsbD_shiftLeft, mask_bit, same_bit]
    simp [hj, below, in_word, Bool.and_comm]

/-- The lowest slice is the word under its mask. -/
theorem setWidth_extractLsb'_zero (k : Nat) : (w.extractLsb' 0 k).setWidth 32 = w &&& BitVec.ofNat 32 (2 ^ k - 1) := by
  simpa using setWidth_extractLsb'_shiftLeft w 0 k

/-- A word is what it has outside bits that are 0. -/
theorem and_eq_self_of_cover {m reserved : Word} (clear : w &&& reserved = 0)
    (cover : m ||| reserved = BitVec.allOnes 32) : w &&& m = w := by
  calc w &&& m
    _ = w &&& m ||| w &&& reserved := by rw [clear]; exact BitVec.or_zero.symm
    _ = w := by rw [← BitVec.and_or_distrib_left, cover, BitVec.and_allOnes]

end

/-- Every bit of a word is in a mask or outside it. -/
theorem or_not_self (m : Word) : m ||| ~~~m = BitVec.allOnes 32 := by
  refine BitVec.eq_of_getLsbD_eq fun j hj => ?_
  simp [hj]

/-! ## The rows of the opcode map -/

/-- The decoder answers a command exactly through a row that has the word's opcode and whose reserved bits are 0 in the
word (R80, R84, R85). -/
theorem decode_eq_ok_iff {w : Word} {i : Instr} :
    decode w = .ok i ↔ ∃ r ∈ opcodeRows, r.opc = opcField w ∧ w &&& r.reserved = 0 ∧ r.build w = i := by
  constructor
  · intro h
    rw [decode] at h
    cases found : opcodeRows.find? fun row => row.opc == opcField w with
    | none => exact nomatch found ▸ h
    | some r =>
      simp only [found] at h
      split at h
      case isTrue reserved =>
        exact ⟨r, List.mem_of_find?_eq_some found, by simpa using List.find?_some found, reserved, Except.ok.inj h⟩
      · exact nomatch h
  · rintro ⟨r, hr, same_opc, reserved, rfl⟩
    rw [decode, find?_opcodeRows hr same_opc]
    exact if_pos reserved

/-- A command's row of the opcode map (R84). -/
def rowOf : Instr → OpcodeRow
  | .freqEncode _ => opcodeRows[0]
  | .freqLoad _ => opcodeRows[1]
  | .phaseEncode _ => opcodeRows[2]
  | .phaseLoad _ => opcodeRows[3]
  | .ctrlGet => opcodeRows[4]
  | .ctrlSync => opcodeRows[5]
  | .setWaveform _ => opcodeRows[6]
  | .setGate _ => opcodeRows[7]
  | .ctrlReset => opcodeRows[8]
  | .gainSolve _ _ => opcodeRows[9]
  | .ampApply _ _ => opcodeRows[10]
  | .potPack _ _ _ => opcodeRows[11]
  | .potWrite _ _ _ => opcodeRows[12]
  | .potRead _ => opcodeRows[13]
  | .errGet => opcodeRows[14]

/-- It is a row of the map. -/
theorem rowOf_mem (i : Instr) : rowOf i ∈ opcodeRows := by
  cases i <;> exact List.getElem_mem _

/-! ## Decoding an encoding -/

section
variable (i : Instr)

/-- The fixed bits of a command's word are its row's, command by command (R81, R84). -/
theorem encode_and_rowMask : encode i &&& rowMask i = rowMatch i := by
  cases i with
  | freqEncode hz => exact Laws.TableRow.freqEncode hz
  | freqLoad hz => exact Laws.TableRow.freqLoad hz
  | phaseEncode deg => exact Laws.TableRow.phaseEncode deg
  | phaseLoad deg => exact Laws.TableRow.phaseLoad deg
  | ctrlGet => exact Laws.TableRow.ctrlGet
  | ctrlSync => exact Laws.TableRow.ctrlSync
  | setWaveform wf => exact Laws.TableRow.setWaveform wf
  | setGate on => exact Laws.TableRow.setGate on
  | ctrlReset => exact Laws.TableRow.ctrlReset
  | gainSolve wf mv => exact Laws.TableRow.gainSolve wf mv
  | ampApply wf mv => exact Laws.TableRow.ampApply wf mv
  | potPack a c d => exact Laws.TableRow.potPack a c d
  | potWrite a c d => exact Laws.TableRow.potWrite a c d
  | potRead a => exact Laws.TableRow.potRead a
  | errGet => exact Laws.TableRow.errGet

/-- The mask of a command's row has the opcode and the reserved bits (R81). -/
theorem rowMask_covers :
    opcField (rowMask i) = BitVec.allOnes 8 ∧ rowMask i &&& (rowOf i).reserved = (rowOf i).reserved := by
  cases i <;> simp only [rowMask, rowOf] <;> decide

/-- The match of a command's row has the opcode, and 0 in the reserved bits (R81, R84). -/
theorem rowMatch_fixed : opcField (rowMatch i) = (rowOf i).opc ∧ rowMatch i &&& (rowOf i).reserved = 0 := by
  cases i <;> simp only [rowMatch, rowOf] <;> decide

/-- The opcode of a command's word (R84). -/
theorem opcField_encode : opcField (encode i) = (rowOf i).opc := by
  have ones := (rowMask_covers i).1
  rw [← (rowMatch_fixed i).1, ← encode_and_rowMask]
  unfold opcField at ones ⊢
  rw [BitVec.extractLsb'_and, ones, BitVec.and_allOnes]

/-- The reserved bits of a command's word are 0 (R81). -/
theorem encode_and_reserved : encode i &&& (rowOf i).reserved = 0 := by
  rw [← (rowMask_covers i).2, ← BitVec.and_assoc, encode_and_rowMask, (rowMatch_fixed i).2]

/-- The slices of a command's word are its operands (R81). -/
theorem build_encode : (rowOf i).build (encode i) = i := by
  cases i with
  | ctrlGet | ctrlSync | ctrlReset | errGet => rfl
  | freqEncode _ | freqLoad _ | phaseEncode _ | phaseLoad _ | setWaveform _ | setGate _ | potRead _ =>
    simp [rowOf, opcodeRows, encode, hzField, lowHalfField, wfField, onField, addrField, BitVec.extractLsb'_or,
      extractLsb'_setWidth_same, extractLsb'_shiftLeft_same]
  | gainSolve _ _ | ampApply _ _ =>
    simp [rowOf, opcodeRows, encode, ampWfField, lowHalfField, BitVec.extractLsb'_or, extractLsb'_setWidth_same,
      extractLsb'_setWidth_above, extractLsb'_shiftLeft_same, extractLsb'_shiftLeft_apart]
  | potPack _ _ _ | potWrite _ _ _ =>
    simp [rowOf, opcodeRows, encode, addrField, cmdField, lowHalfField, BitVec.extractLsb'_or,
      extractLsb'_setWidth_same, extractLsb'_setWidth_above, extractLsb'_shiftLeft_same, extractLsb'_shiftLeft_apart]

end

/-- Settles O6: the command's own row accepts its word and builds the command from it. -/
theorem decodeOfEncode : Obligations.DecodeOfEncode := fun i =>
  decode_eq_ok_iff.2 ⟨rowOf i, rowOf_mem i, (opcField_encode i).symm, encode_and_reserved i, build_encode i⟩

/-! ## Encoding what was decoded -/

/-- What a row builds from a word is encoded with the row's opcode and with the word's own bits outside the opcode and
the reserved bits (R81): each slice goes back to its place, and the slices' masks together are that outside. -/
theorem encode_build {r : OpcodeRow} (hr : r ∈ opcodeRows) (w : Word) :
    encode (r.build w) = r.opc.setWidth 32 <<< 24 ||| (w &&& ~~~(0xFF000000 ||| r.reserved)) := by
  fin_cases hr <;>
    simp [encode, hzField, lowHalfField, wfField, onField, addrField, cmdField, ampWfField,
      setWidth_extractLsb'_shiftLeft, setWidth_extractLsb'_zero, BitVec.or_assoc, ← BitVec.and_or_distrib_left]

/-- Settles O7: the encoding has the word's opcode and its operand bits, and the reserved bits are 0 in both. -/
theorem encodeOfDecode : Obligations.EncodeOfDecode := by
  intro w i h
  obtain ⟨r, hr, same_opc, reserved, rfl⟩ := decode_eq_ok_iff.1 h
  have opc : r.opc.setWidth 32 <<< 24 = w &&& 0xFF000000 := by
    rw [same_opc]
    exact setWidth_extractLsb'_shiftLeft w 24 8
  have cover : 0xFF000000 ||| ~~~(0xFF000000 ||| r.reserved) ||| r.reserved = BitVec.allOnes 32 := by
    rw [BitVec.or_assoc, BitVec.or_comm (~~~_), ← BitVec.or_assoc, or_not_self]
  rw [encode_build hr, opc, ← BitVec.and_or_distrib_left]
  exact and_eq_self_of_cover w reserved cover

/-! ## Examples -/

/-- Settles O8: the decoder run on each word. -/
theorem exampleWordsDecode : Obligations.ExampleWordsDecode := by
  unfold Obligations.ExampleWordsDecode
  decide

/-- Settles O49: the assembler run on each line. -/
theorem assemblerExamples : Obligations.AssemblerExamples := by
  unfold Obligations.AssemblerExamples
  decide

end Sys2Proof
end

section
/-!
PROOF. Facts about single commands and the functions they call. The control image: waveform and gate are independent
(O22), and `CTRL` changes only by a control word that drew `Ok` (O24). The gain curve is monotone (O26). The
potentiometer bytes give their fields back (O30). A command that fails before the bus ends in its rejection (O38).
-/

namespace Sys2Proof.Machine

open Sys2Proof.Claims

/-! ## The control image -/

/-- Settles O22: each clause is checked on the eight images, or was (`withWave_mem_legalImages`,
`withGate_mem_legalImages`). -/
theorem gateAndWaveformAreIndependent : Obligations.GateAndWaveformAreIndependent := by
  intro g c k on legal
  refine ⟨withWave_mem_legalImages k legal, ?wave, ?waveKeepsGate, withGate_mem_legalImages on legal, ?gate,
    ?gateKeepsWave, ?kind⟩
  case wave =>
    refine of_mem_legalImages (P := fun c => waveformOfImage (withWave c k) = some k) ?_ legal
    cases g <;> cases k <;> decide
  case waveKeepsGate =>
    refine of_mem_legalImages (P := fun c => gateOn g (withWave c k) = gateOn g c) ?_ legal
    cases g <;> cases k <;> decide
  case gate =>
    refine of_mem_legalImages (P := fun c => gateOn g (withGate g c on) = (on == 1)) ?_ legal
    revert on
    cases g <;> decide
  case gateKeepsWave =>
    refine of_mem_legalImages (P := fun c => waveformOfImage (withGate g c on) = waveformOfImage c) ?_ legal
    revert on
    cases g <;> decide
  case kind =>
    refine of_mem_legalImages (P := fun c => (waveformOfImage c).isSome) ?_ legal
    cases g <;> decide

/-- A command that commits the image `n` runs the commit step. -/
theorem eq_ctlCommit_of_exec {i : Instr} {n : Half} {s t : State} (h : exec i s = .next t)
    (himage : commandImage i s = some n) : t = ctlCommit n s :=
  (accept_next_iff.1 ((exec_eq_accept_ctlCommit himage).symm.trans h)).2.symm

/-- A command that changes `CTRL` stored a control word that drew `Ok` (R130). -/
theorem eq_stored_of_exec {i : Instr} {s t : State} (h : exec i s = .next t) (changed : t.ctrl ≠ s.ctrl) :
    t = respond .success t.ctrl 0 1 (setCtrl t.ctrl (record (.aWord t.ctrl (some .ok)) s)) := by
  have committed := eq_ctlCommit_of_exec h ((exec_ctrl h).resolve_right changed)
  rcases ctlCommit_cases t.ctrl s with ⟨-, stored⟩ | ⟨-, failed⟩ | ⟨-, hung⟩
  · exact committed.trans stored
  · exact absurd (congrArg State.ctrl (committed.trans failed)) changed
  · exact absurd (congrArg State.ctrl (committed.trans hung)) changed

/-- Settles O24: a changed `CTRL` was stored, with `Success`; so with any other status it is unchanged. -/
theorem ctrlChangesOnlyOnSuccess : Obligations.CtrlChangesOnlyOnSuccess := by
  intro i s t h
  have idle : s.run = .idle := run_eq_idle_of_exec_next h
  have stored : t.ctrl ≠ s.ctrl →
      t.trace = s.trace ++ [.aWord t.ctrl (some .ok)] ∧ t.run = .idle ∧ t.rspStatus = 0 := fun changed =>
    have ended := eq_stored_of_exec h changed
    ⟨congrArg State.trace ended, (congrArg State.run ended).trans idle, congrArg State.rspStatus ended⟩
  exact ⟨stored, fun _ failed => by_contra fun changed => failed (stored changed).2.2⟩

/-! ## The gain curve -/

/-- The noise floor keeps the order of resistances (R155). -/
theorem noiseFloor_mono {r r' : Int} (h : r ≤ r') : noiseFloor r ≤ noiseFloor r' := by
  unfold noiseFloor
  split_ifs <;> omega

/-- Branch A gives more attenuator taps for more millivolts (R154). -/
theorem solveBranchA_mono (potOhms : Nat) {mv mv' : Nat} (h : mv ≤ mv') :
    (solveBranchA potOhms mv).2 ≤ (solveBranchA potOhms mv').2 := by
  rw [solveBranchA_eq, solveBranchA_eq]
  dsimp only
  gcongr

/-- Branch B gives fewer feedback taps for more millivolts (R155). -/
theorem solveBranchB_anti (potOhms : Nat) {mv mv' : Nat} (h : mv ≤ mv') :
    (solveBranchB potOhms mv').1 ≤ (solveBranchB potOhms mv).1 := by
  have resistance : (3072000 - 1455 * (mv' : Int)) ≤ 3072000 - 1455 * (mv : Int) := by omega
  rw [solveBranchB_eq, solveBranchB_eq]
  exact min_le_min_left _ (Nat.div_le_div_right (noiseFloor_mono resistance))

/-- Branch C gives more attenuator taps for more millivolts (R156). -/
theorem solveBranchC_mono (potOhms : Nat) {mv mv' : Nat} (h : mv ≤ mv') :
    (solveBranchC potOhms mv).2 ≤ (solveBranchC potOhms mv').2 := by
  rw [solveBranchC_eq, solveBranchC_eq]
  dsimp only
  gcongr

/-- Settles O26: both amplitudes fall to the same branch, and each branch is monotone. -/
theorem gainCurveIsMonotone : Obligations.GainCurveIsMonotone := by
  intro potOhms mv mv' k h
  refine ⟨fun branch => ?attenuator, fun hk above => ?feedback⟩
  case attenuator =>
    by_cases hk : k = .square ∨ k = .squareDiv2
    · rw [solve_eq_branchC hk, solve_eq_branchC hk]
      exact solveBranchC_mono potOhms h
    · have smooth : k = .sine ∨ k = .triangle := by
        revert hk
        cases k <;> decide
      have upTo : mv' ≤ 350 := by tauto
      rw [solve_eq_branchA smooth (h.trans upTo), solve_eq_branchA smooth upTo]
      exact solveBranchA_mono potOhms h
  case feedback =>
    rw [solve_eq_branchB hk above, solve_eq_branchB hk (above.trans_le h)]
    exact solveBranchB_anti potOhms h

/-! ## The potentiometer bytes -/

section
variable (a : BitVec 4) (c : BitVec 2) (d : BitVec 16)

/-- The register nibble of a packed command byte (R91). -/
@[simp] theorem byteAddr_potByte1 : byteAddr (potByte1 a c d) = a := by
  apply BitVec.eq_of_toNat_eq
  rw [byteAddr, BitVec.extractLsb'_toNat, potByte1_toNat, Nat.shiftRight_eq_div_pow]
  omega

/-- The command bits of a packed command byte (R91). -/
@[simp] theorem byteCommand_potByte1 : byteCommand (potByte1 a c d) = c := by
  apply BitVec.eq_of_toNat_eq
  rw [byteCommand, BitVec.extractLsb'_toNat, potByte1_toNat, Nat.shiftRight_eq_div_pow]
  omega

/-- The data bits of a packed command byte (R91). -/
theorem dataBits_potByte1 : ((potByte1 a c d).extractLsb' 0 2).toNat = d.toNat / 256 % 4 := by
  rw [BitVec.extractLsb'_toNat, potByte1_toNat, Nat.shiftRight_zero]
  omega

end

/-- The first packed byte is the command byte, whatever the data (R182). -/
theorem potPack_eq_cons (a : BitVec 4) (c : BitVec 2) (d : BitVec 16) :
    potPack a c d = potByte1 a c d :: if d = 0 then [] else [potByte2 d] := by
  rw [potPack]
  split <;> rfl

/-- The packed bytes of data up to 256 give the data back (R182, R183). -/
theorem data_eq_of_potPack_eq {a a' : BitVec 4} {c c' : BitVec 2} {d d' : BitVec 16} (hd : d.toNat ≤ 256)
    (hd' : d'.toNat ≤ 256) (h : potPack a c d = potPack a' c' d') : d = d' := by
  rw [potPack_eq_cons, potPack_eq_cons] at h
  obtain ⟨first, second⟩ := List.cons.inj h
  have high : d.toNat / 256 % 4 = d'.toNat / 256 % 4 := by rw [← dataBits_potByte1 a c, first, dataBits_potByte1]
  split_ifs at second with zero zero' zero'
  · exact zero.trans zero'.symm
  · have low := congrArg BitVec.toNat (List.cons.inj second).1
    rw [potByte2_toNat, potByte2_toNat] at low
    apply BitVec.eq_of_toNat_eq
    omega

/-- Settles O30: the first byte gives the address and the command back, both bytes the data. -/
theorem potPackInjective : Obligations.PotPackInjective := by
  intro a a' c c' d d' hd hd' h
  have same_first : potByte1 a c d = potByte1 a' c' d' := by
    rw [potPack_eq_cons, potPack_eq_cons] at h
    exact (List.cons.inj h).1
  have addr : a = a' := by simpa using congrArg byteAddr same_first
  have command : c = c' := by simpa using congrArg byteCommand same_first
  exact ⟨addr, command, data_eq_of_potPack_eq hd hd' h⟩

/-! ## Failures before the bus -/

/-- A command that carries a triple has no ranged operand and no waveform code, so it fails no earlier check (R212). -/
theorem earlier_checks_pass_of_invalidTriple {i : Instr} (invalid : invalidTriple i) :
    ¬ outOfRange i ∧ ¬ unknownWaveform i := by
  cases i with
  | potPack _ _ _ | potWrite _ _ _ | potRead _ => exact ⟨id, id⟩
  | _ => exact invalid.elim

/-- Settles O38: an idle block accepts the command, and each failed check has one end. -/
theorem earlyFailureLeavesState : Obligations.EarlyFailureLeavesState := by
  intro i s hrun
  obtain ⟨t, h⟩ : ∃ t, exec i s = .next t := ⟨_, exec_idle i hrun⟩
  have ending := exec_end h
  rw [h]
  refine ⟨fun out => ?range, fun inRange unknown => ?waveform, fun invalid => ?triple⟩
  case range => exact congrArg _ (ending.eq_reject_valueTooLarge out)
  case waveform => exact congrArg _ (ending.eq_rejectWaveform inRange unknown)
  case triple =>
    obtain ⟨inRange, known⟩ := earlier_checks_pass_of_invalidTriple invalid
    exact congrArg _ (ending.eq_reject_unknownError inRange known invalid)

end Sys2Proof.Machine
end

section
/-!
PROOF. Steps (60_exceptions.md R215 to R217, 70_reset_and_hazards.md R240, R241): stepping and waiting (O2, O3), what a
reset leaves alone (O51), and then `step_next_cases`, which says once what a step with a next state can be: waiting, a
presented word, or a reset. That only reset leaves a hung block (O48) is read off it.
-/

namespace Sys2Proof.Machine

/-! ## Stepping and waiting -/

/-- Settles O2: a presented word that decodes to a command is run by its meaning, also one that `withFetchWord`
placed. -/
theorem stepRunsTheDecodedCommand : Obligations.StepRunsTheDecodedCommand :=
  ⟨fun _ _ _ _ hhost hdecode => (step_present hhost).trans (runCommand_of_decode_ok hdecode),
    fun _ _ _ _ hdecode => (step_present rfl).trans (runCommand_of_decode_ok hdecode)⟩

/-- With no move of the host the block waits for one (R241). -/
theorem step_no_move {s : State} (hhost : s.host = []) : step s = accept id s := by
  simp only [step, sequencerStep, takeMove_nil hhost, awaitCommand]

/-- Settles O3: an idle block accepts to wait, which changes nothing. -/
theorem idleBlockWaits : Obligations.IdleBlockWaits := by
  intro s hrun hhost
  rw [step_no_move hhost, accept_idle hrun, id_def]

/-! ## What a presented word leaves alone -/

/-- A presented word that ends was accepted by an idle block, keeps the parameters and the host's moves, and uses at
most two answers. -/
theorem runCommand_frame {w : Word} {s t : State} (h : runCommand w s = .next t) :
    s.run = .idle ∧ t.params = s.params ∧ t.host = s.host ∧ t.drawn ≤ s.drawn + 2 := by
  cases hdecode : decode w with
  | error e =>
    obtain ⟨hrun, rfl⟩ := runCommand_illegal_next hdecode h
    exact ⟨hrun, rfl, rfl, Nat.le_add_right _ _⟩
  | ok i =>
    rw [runCommand_of_decode_ok hdecode] at h
    obtain ⟨es, short, -, -, drawn, params, host⟩ := commandsOnlyAppendToTrace i s t h
    exact ⟨run_eq_idle_of_exec_next h, params, host, by omega⟩

/-! ## Reset -/

/-- A command abandoned after `k` primitives had started used up at most `k` answers, and at most two (R240). -/
theorem abandonCommand_runCommand (k : Nat) (w : Word) (s : State) :
    ∃ n, n ≤ k ∧ n ≤ 2 ∧ abandonCommand k (runCommand w s) s =
      { resetBlock s with draws := s.draws.drop n, drawn := s.drawn + n } := by
  cases ended : runCommand w s with
  | next t =>
    obtain ⟨-, -, -, drawn⟩ := runCommand_frame ended
    have two : t.drawn - s.drawn ≤ 2 := Nat.sub_le_iff_le_add'.2 drawn
    exact ⟨min k (t.drawn - s.drawn), min_le_left _ _, (min_le_right _ _).trans two, rfl⟩
  | fault r => exact ⟨min k 0, min_le_left _ _, (min_le_right _ _).trans (by decide), rfl⟩
  | refused r => exact ⟨min k 0, min_le_left _ _, (min_le_right _ _).trans (by decide), rfl⟩

/-- Settles O51: a reset keeps what is not the block's; one in the middle of a command has used up its answers. -/
theorem resetLeavesTheOutside : Obligations.ResetLeavesTheOutside := by
  intro s m rest hhost
  refine ⟨?between, ?midCommand⟩
  case between =>
    rintro rfl
    exact ⟨_, step_assertReset hhost, rfl, rfl, rfl, rfl⟩
  case midCommand =>
    rintro w k rfl
    obtain ⟨n, started, two, abandoned⟩ := abandonCommand_runCommand k w { s with host := rest }
    have hstep : step s = .next (abandonCommand k (runCommand w { s with host := rest }) { s with host := rest }) := by
      simp only [step, sequencerStep, takeMove_cons hhost, takeHostMove]
    rw [abandoned] at hstep
    exact ⟨_, n, started, two, hstep, rfl, rfl, rfl, rfl⟩

/-! ## All a step can do -/

/-- A step with a next state waited, ran a presented word, or took a reset. -/
theorem step_next_cases {s t : State} (h : step s = .next t) :
    (s.host = [] ∧ s.run = .idle ∧ t = s) ∨
      (∃ w rest, s.host = .present w :: rest ∧ runCommand w { s with host := rest } = .next t) ∨
      (∃ m rest, s.host = m :: rest ∧ (m = .assertReset ∨ ∃ w k, m = .presentThenReset w k) ∧
        ∃ n, t = { resetBlock { s with host := rest } with draws := s.draws.drop n, drawn := s.drawn + n }) := by
  have of_reset : ∀ {m rest}, s.host = m :: rest → (m = .assertReset ∨ ∃ w k, m = .presentThenReset w k) →
      ∃ n, t = { resetBlock { s with host := rest } with draws := s.draws.drop n, drawn := s.drawn + n } :=
    fun hhost hreset => (step_of_reset hhost hreset).imp fun n hstep => Host.Outcome.next.inj (h.symm.trans hstep)
  match hhost : s.host with
  | [] =>
    obtain ⟨hrun, rfl⟩ := accept_next_iff.1 ((step_no_move hhost).symm.trans h)
    exact .inl ⟨rfl, hrun, rfl⟩
  | .present w :: rest => exact .inr (.inl ⟨w, rest, rfl, (step_present hhost).symm.trans h⟩)
  | .assertReset :: rest => exact .inr (.inr ⟨_, rest, rfl, .inl rfl, of_reset hhost (.inl rfl)⟩)
  | .presentThenReset w k :: rest =>
    exact .inr (.inr ⟨_, rest, rfl, .inr ⟨w, k, rfl⟩, of_reset hhost (.inr ⟨w, k, rfl⟩)⟩)

/-- Settles O48: waiting and a presented word need an idle block, and each kind of step takes its one move. -/
theorem onlyResetLeavesHung : Obligations.OnlyResetLeavesHung := by
  intro s t h
  obtain ⟨hhost, hrun, rfl⟩ | ⟨w, rest, hhost, ran⟩ | ⟨m, rest, hhost, hreset, n, rfl⟩ := step_next_cases h
  · exact ⟨rfl, by rw [hhost, List.tail_nil], fun hung => nomatch hrun.symm.trans hung⟩
  · obtain ⟨hrun, params, host, -⟩ := runCommand_frame ran
    exact ⟨params, by rw [host, hhost, List.tail_cons], fun hung => nomatch hrun.symm.trans hung⟩
  · refine ⟨rfl, by rw [hhost, List.tail_cons]; rfl, fun _ => ?_⟩
    obtain rfl | ⟨w, k, rfl⟩ := hreset
    · exact .inl ⟨rest, hhost⟩
    · exact .inr ⟨w, k, rest, hhost⟩

end Sys2Proof.Machine
end

section
/-!
PROOF. Sound states (O46, O47). What a command makes is one of the lists of `Emits`, and each of them is emittable,
pairs its FREQ0 words and arms its read; put after a settled trace it keeps the trace so. With the registers, from
`exec_end` and the length of every answer, each command keeps a sound state sound, and so does each kind of step.
-/

namespace Sys2Proof.Machine

open Sys2Proof.Claims

/-! ## Settled traces -/

section
variable {s : State} {es : List Event} {e : Event}

/-- An idle block's trace is settled when it has completed events only (R30, R31). -/
theorem traceSettled_iff_of_idle (hrun : s.run = .idle) : TraceSettled s ↔ s.trace.all eventCompleted = true := by
  rcases List.eq_nil_or_concat s.trace with nil | ⟨es, e, concat⟩
  · simp [TraceSettled, nil, hrun]
  · simp [TraceSettled, concat, hrun]

/-- A hung block's trace is settled when its last event is the one that has not completed (R31, R217). -/
theorem traceSettled_of_hung (hrun : s.run = .hung) (trace : s.trace = es ++ [e])
    (completed : es.all eventCompleted = true) (unfinished : eventCompleted e = false) : TraceSettled s := by
  refine ⟨?_, ?_⟩
  · rw [trace, List.dropLast_concat, completed]
  · simp [hrun, trace, unfinished]

end

/-! ## FREQ0 words in pairs, reads armed -/

/-- An event that is no FREQ0 word leaves the pairing to the others (R63). -/
theorem freqPaired_cons {e : Event} {es : List Event} (h : isFreq0Word e = false) :
    freqPaired (e :: es) = freqPaired es := by
  cases es with
  | nil => simp [freqPaired, h]
  | cons e' es => simp [freqPaired, h]

/-- After completed pairs come pairs again (R63). -/
theorem freqPaired_append {es fs : List Event} (completed : es.all eventCompleted = true) (hes : freqPaired es = true)
    (hfs : freqPaired fs = true) : freqPaired (es ++ fs) = true := by
  induction es using freqPaired.induct with
  | case1 => exact hfs
  | case2 e =>
    have no_freq : isFreq0Word e = false := by simp_all [freqPaired]
    rwa [List.singleton_append, freqPaired_cons no_freq]
  | case3 e1 e2 rest freq ih =>
    simp_all [freqPaired]
  | case4 e1 e2 rest no_freq ih =>
    simp_all [freqPaired]

/-- A list that arms its own reads also does so after an event that armed one (R186). -/
theorem readsArmed_mono {armed : Bool} {es : List Event} (h : readsArmed false es = true) :
    readsArmed armed es = true := by
  cases es with
  | nil => rfl
  | cons e es =>
    simp only [readsArmed, Bool.or_false, Bool.and_eq_true] at h ⊢
    exact ⟨by rw [h.1, Bool.true_or], h.2⟩

/-- Two lists that arm their reads, one after the other (R186). -/
theorem readsArmed_append {armed : Bool} {es fs : List Event} (hes : readsArmed armed es = true)
    (hfs : readsArmed false fs = true) : readsArmed armed (es ++ fs) = true := by
  induction es generalizing armed with
  | nil => exact readsArmed_mono hfs
  | cons e es ih =>
    simp only [readsArmed, List.cons_append, Bool.and_eq_true] at hes ⊢
    exact ⟨hes.1, ih hes.2⟩

/-! ## What a command may emit -/

section
variable {g : GateBit}

/-- A legal image is a control word (R28, R53). -/
theorem ddsTarget_of_mem_legalImages {n : Half} (h : n ∈ legalImages g) : ddsTarget n = .control := by
  refine of_mem_legalImages (P := fun n => ddsTarget n = .control) ?_ h
  cases g <;> decide

/-- The packed bytes of a valid triple may be emitted (R59, R180, R183). -/
theorem eventEmittable_potPack {a : BitVec 4} {c : BitVec 2} {d : BitVec 16} (valid : potValid a c d = true)
    (o : Option Completion) : eventEmittable g (.bWrite (potPack a c d) o) = true := by
  obtain ⟨ha, hd⟩ := potValid_iff.1 valid
  have known := potAddrKnown_iff.2 ha
  have data_bits {n : Nat} (h : d.toNat / 256 = n) : (potByte1 a c d).extractLsb' 0 2 = BitVec.ofNat 2 n := by
    apply BitVec.eq_of_toNat_eq
    rw [dataBits_potByte1, h, BitVec.toNat_ofNat]
  by_cases zero : d = 0
  · subst zero
    rw [potPack, if_pos rfl, eventEmittable, byteAddr_potByte1, known, data_bits (n := 0) rfl]
    rfl
  rw [potPack_of_ne_zero zero]
  rcases Nat.lt_or_eq_of_le hd with small | full
  · have byte2 : potByte2 d ≠ 0#8 := fun byte2_zero => zero <| by
      apply BitVec.eq_of_toNat_eq
      have low := potByte2_toNat d
      rwa [byte2_zero, Nat.mod_eq_of_lt small, eq_comm] at low
    simp [eventEmittable, known, data_bits (Nat.div_eq_of_lt small), byte2]
  · have byte2 : potByte2 d = 0#8 := by
      apply BitVec.eq_of_toNat_eq
      rw [potByte2_toNat, full]
      rfl
    simp [eventEmittable, known, data_bits (n := 1) (by rw [full]), byte2]

/-- Bit 12 of the phase word is 0 (R114). -/
theorem phaseWord_bit12 (deg : Nat) : (phaseWord deg)[12] = false := by
  rw [← BitVec.getLsbD_eq_getElem, ← BitVec.testBit_toNat, Nat.testBit_eq_decide_div_mod_eq, phaseWord_toNat_div]
  decide

/-- The arming write of POT_READ arms its read (R186). -/
theorem armsRead_readData (a : BitVec 4) :
    armsRead (.bWrite (potPack a (potCommandCode .readData) 0) (some .ok)) = true := by
  simp [potPack, armsRead, potCommandCode, potCommandOf]

end

/-- A list of events that a sound block may add to its trace. -/
structure Addable (g : GateBit) (es : List Event) : Prop where
  emittable : es.all (eventEmittable g) = true
  paired : freqPaired es = true
  armed : readsArmed false es = true

/-- Events that are neither FREQ0 words nor reads need no partner. -/
theorem addable_of_plain {g : GateBit} {es : List Event} (emittable : es.all (eventEmittable g) = true)
    (plain : ∀ e ∈ es, isFreq0Word e = false ∧ isRead e = false) : Addable g es := by
  refine ⟨emittable, ?_, ?_⟩
  · clear emittable
    induction es with
    | nil => rfl
    | cons e es ih =>
      rw [freqPaired_cons (plain e List.mem_cons_self).1]
      exact ih fun e' mem => plain e' (List.mem_cons_of_mem e mem)
  · clear emittable
    generalize false = armed
    induction es generalizing armed with
    | nil => rfl
    | cons e es ih =>
      rw [readsArmed, (plain e List.mem_cons_self).2]
      exact ih (fun e' mem => plain e' (List.mem_cons_of_mem e mem)) _

/-- A bus-A word that is no FREQ0 word needs no partner. -/
theorem addable_word {g : GateBit} {w : Half} {o : Option Completion} (emittable : eventEmittable g (.aWord w o) = true)
    (target : ddsTarget w ≠ .freq0) : Addable g [.aWord w o] :=
  addable_of_plain (by simp [emittable]) (by simp [isFreq0Word, isRead, target])

/-- The FREQ0 words of a tuning word are emittable, and both are FREQ0 words (R88). -/
theorem freqWords_emittable (g : GateBit) (tw : BitVec 28) (o1 o2 : Option Completion) :
    eventEmittable g (.aWord (lsbWord tw) o1) = true ∧ isFreq0Word (.aWord (lsbWord tw) o1) = true ∧
      eventEmittable g (.aWord (msbWord tw) o2) = true ∧ isFreq0Word (.aWord (msbWord tw) o2) = true := by
  simp [eventEmittable, isFreq0Word, ddsTarget_lsbWord, ddsTarget_msbWord]

/-- Every command's events may be added, when the image it commits is legal. -/
theorem Emits.addable {g : GateBit} {image : Option Half} {es : List Event}
    (legal : ∀ n, image = some n → n ∈ legalImages g) (h : Emits image es) : Addable g es := by
  cases h with
  | nothing => exact ⟨rfl, rfl, rfl⟩
  | control himage o =>
    have target := ddsTarget_of_mem_legalImages (legal _ himage)
    exact addable_word (by simp [eventEmittable, target, legal _ himage]) (by rw [target]; exact nofun)
  | phase deg o =>
    have target := ddsTarget_phaseWord deg
    exact addable_word (by simp [eventEmittable, target, phaseWord_bit12]) (by rw [target]; exact nofun)
  | freqHalf tw =>
    obtain ⟨emittable, -, -, -⟩ := freqWords_emittable g tw none none
    exact ⟨by rw [List.all_cons, emittable]; rfl, by simp [freqPaired, eventCompleted], rfl⟩
  | freqPair tw o1 o2 =>
    obtain ⟨emittable1, freq1, emittable2, freq2⟩ := freqWords_emittable g tw (some o1) o2
    exact ⟨by rw [List.all_cons, List.all_cons, emittable1, emittable2]; rfl, by simp [freqPaired, freq1, freq2], rfl⟩
  | pot valid o =>
    exact addable_of_plain (by rw [List.all_cons, eventEmittable_potPack valid]; rfl) (by simp [isFreq0Word, isRead])
  | taps valid valid' o o' =>
    refine addable_of_plain ?_ (by simp [isFreq0Word, isRead])
    rw [List.all_cons, List.all_cons, eventEmittable_potPack valid, eventEmittable_potPack valid']
    rfl
  | @armedRead a known o =>
    have valid : potValid a (potCommandCode .readData) 0 = true :=
      potValid_iff.2 ⟨potAddrKnown_iff.1 known, Nat.zero_le _⟩
    refine ⟨?_, rfl, ?_⟩
    · rw [List.all_cons, eventEmittable_potPack valid]
      rfl
    · simp only [readsArmed, isRead, armsRead_readData]
      rfl

/-! ## The response -/

/-- Every answer of the script has a count of `RSP_LEN`: 0, 1 or 2 (R22, R92). -/
def Script.LensLegal : Script → Prop
  | .answer a => a.len = 0 ∨ a.len = 1 ∨ a.len = 2
  | .word _ rest | .write _ rest => ∀ o, (rest o).LensLegal
  | .read rest => ∀ o, (rest o).LensLegal

/-- The answer a script comes to is one of its answers. -/
theorem Script.LensLegal.play {sc : Script} (h : sc.LensLegal) (draw : Nat → Draw) {a : Answer}
    (answered : (sc.play draw).ending = some a) : a.len = 0 ∨ a.len = 1 ∨ a.len = 2 := by
  have of_cons : ∀ {γ : Type} {e : Option γ → Event} {next : γ → Played} {c : Option γ},
      (Played.cons e next c).ending = some a → ∃ o, (next o).ending = some a := by
    rintro γ e next (_ | o) ended
    · exact nomatch ended
    · exact ⟨o, ended⟩
  induction sc generalizing draw with
  | answer b => exact Option.some.inj answered ▸ h
  | word _ rest ih | write _ rest ih | read rest ih =>
    obtain ⟨o, ended⟩ := of_cons answered
    exact ih o (h o) _ ended

/-- Packed bytes are one or two (R183). -/
theorem bytesAnswer_lensLegal (count : Option Nat) (st : Status) (a : BitVec 4) (c : BitVec 2) (d : BitVec 16) :
    (bytesAnswer count st (potPack a c d)).LensLegal := by
  rw [potPack_eq_cons]
  split
  · exact .inr (.inl rfl)
  · exact .inr (.inr rfl)

/-- The commit step answers one result (R130). -/
theorem commitScript_lensLegal (n : Half) : (commitScript n).LensLegal
  | .ok | .fail => .inr (.inl rfl)

/-- POT_READ answers one result or none (R186). -/
theorem readScript_lensLegal (a : BitVec 4) : (readScript a).LensLegal
  | .fail => .inl rfl
  | .ok => fun
    | .fail => .inl rfl
    | .ok _ _ => .inr (.inl rfl)

/-- A command with a check answers on both sides of it. -/
theorem ite_lensLegal {p : Prop} [Decidable p] {sc sc' : Script} (h : sc.LensLegal) (h' : sc'.LensLegal) :
    (if p then sc else sc').LensLegal := by
  split
  · exact h
  · exact h'

/-- Every command answers 0, 1 or 2 results (R92). -/
theorem scriptIn_lensLegal (i : Instr) (s : State) : (scriptIn i s).LensLegal := by
  rw [scriptIn]
  cases i with
  | ctrlGet => exact .inr (.inl rfl)
  | errGet => exact .inr (.inr rfl)
  | ctrlSync | setGate _ | ctrlReset => exact commitScript_lensLegal _
  | freqEncode _ => exact ite_lensLegal (.inr (.inr rfl)) (.inl rfl)
  | freqLoad _ => exact ite_lensLegal (fun _ _ => .inr (.inr rfl)) (.inl rfl)
  | phaseEncode _ => exact ite_lensLegal (.inr (.inl rfl)) (.inl rfl)
  | phaseLoad _ => exact ite_lensLegal (fun _ => .inr (.inl rfl)) (.inl rfl)
  | setWaveform wf =>
    rw [commandScript]
    cases waveformOf wf with
    | none => exact .inl rfl
    | some k => exact commitScript_lensLegal _
  | gainSolve wf _ =>
    rw [commandScript]
    refine ite_lensLegal ?_ (.inl rfl)
    cases waveformOf wf with
    | none => exact .inl rfl
    | some k => exact .inr (.inr rfl)
  | ampApply wf _ =>
    rw [commandScript]
    refine ite_lensLegal ?_ (.inl rfl)
    cases waveformOf wf with
    | none => exact .inl rfl
    | some k => exact fun _ _ => .inr (.inr rfl)
  | potPack a c d => exact ite_lensLegal (bytesAnswer_lensLegal _ _ a c d) (.inl rfl)
  | potWrite a c d => exact ite_lensLegal (fun _ => bytesAnswer_lensLegal _ _ a c d) (.inl rfl)
  | potRead a => exact ite_lensLegal (readScript_lensLegal a) (.inl rfl)

/-! ## Sound states -/

section
variable {s t : State}

/-- A command leaves the counter in its width (R29). -/
theorem CommandEnd.errcntInWidth {i : Instr} (ending : CommandEnd i s t) (inWidth : ErrcntInWidth s)
    (params : t.params = s.params) : ErrcntInWidth t := by
  have below (n : Nat) : n % 2 ^ s.params.errcntWidth < 2 ^ s.params.errcntWidth := Nat.mod_lt _ (Nat.two_pow_pos _)
  rw [ErrcntInWidth, params]
  cases ending with
  | outOfRange => exact inWidth
  | unknownWaveform => exact below _
  | invalidTriple => exact inWidth
  | answered _ answer => exact answer.errcnt inWidth ▸ below _
  | hung => exact inWidth

/-- A command ends with a status that the block writes, or with the one it found (R211, R217). -/
theorem CommandEnd.statusWritten {i : Instr} (ending : CommandEnd i s t) (written : StatusWritten s) :
    StatusWritten t := by
  cases ending with
  | outOfRange => exact .inr (.inr (.inl rfl))
  | unknownWaveform => exact .inr (.inl rfl)
  | invalidTriple => exact .inr (.inl rfl)
  | answered _ answer =>
    rw [StatusWritten, answer.status]
    split
    · exact .inl rfl
    · exact .inr (.inl rfl)
  | hung => exact written

/-- A script that plays in a block with a legal `RSP_LEN` leaves a legal one (R22). -/
theorem conclude_lenLegal {sc : Script} (h : sc.LensLegal) (draw : Nat → Draw) (len : LenLegal s) :
    LenLegal ((sc.play draw).conclude s) := by
  rw [Played.conclude]
  cases ending : (sc.play draw).ending with
  | some a => exact h.play draw ending
  | none => exact len

/-- A script that plays after completed events leaves a settled trace (R30, R31). -/
theorem conclude_traceSettled (sc : Script) (draw : Nat → Draw) (hrun : s.run = .idle)
    (completed : s.trace.all eventCompleted = true) : TraceSettled ((sc.play draw).conclude s) := by
  have trace := conclude_trace (sc.play draw) s
  cases ending : (sc.play draw).ending with
  | some a =>
    have idle : ((sc.play draw).conclude s).run = .idle := by rw [Played.conclude, ending]; exact hrun
    rw [traceSettled_iff_of_idle idle, trace, List.all_append, completed, play_completed ending, Bool.and_self]
  | none =>
    obtain ⟨es, e, events, es_completed, unfinished, -⟩ := play_unfinished ending
    rw [events, ← List.append_assoc] at trace
    refine traceSettled_of_hung ((conclude_run_eq_hung_iff hrun).2 ending) trace ?_ unfinished
    rw [List.all_append, completed, es_completed, Bool.and_self]

/-- Every command keeps a sound state sound. -/
theorem exec_sound {i : Instr} (sound : Sound s) (h : exec i s = .next t) : Sound t := by
  obtain ⟨hrun, ended⟩ := exec_next_iff.1 h
  have ending := exec_end h
  have params : t.params = s.params := ended ▸ conclude_params _ _
  have trace : t.trace = s.trace ++ (playIn i s).events := ended ▸ conclude_trace _ _
  have completed := (traceSettled_iff_of_idle hrun).1 sound.settled
  have added : Addable s.params.gateBit (playIn i s).events :=
    (playIn_emits i s).addable fun _ himage => commandImage_mem_legalImages sound.ctrl himage
  exact {
    ctrl := by rw [CtrlLegal, params]; exact exec_ctrl_mem_legalImages sound.ctrl h
    errcnt := ending.errcntInWidth sound.errcnt params
    status := ending.statusWritten sound.status
    len := ended ▸ conclude_lenLegal (scriptIn_lensLegal i s) _ sound.len
    settled := ended ▸ conclude_traceSettled _ _ hrun completed
    emittable := by rw [TraceEmittable, params, trace, List.all_append, sound.emittable, added.emittable, Bool.and_self]
    paired := trace ▸ freqPaired_append completed sound.paired added.paired
    armed := trace ▸ readsArmed_append sound.armed added.armed }

/-- An illegal word's rejection keeps a sound state sound (R85, R86). -/
theorem Sound.reject_otherError (sound : Sound s) : Sound (reject .otherError s) where
  ctrl := sound.ctrl
  errcnt := sound.errcnt
  status := .inr (.inr (.inr rfl))
  len := .inl rfl
  settled := sound.settled
  emittable := sound.emittable
  paired := sound.paired
  armed := sound.armed

/-- What is not the block's has no part in soundness. -/
theorem Sound.outside (sound : Sound s) (host : List HostMove) (draws : List Draw) (drawn : Nat) :
    Sound { s with host := host, draws := draws, drawn := drawn } where
  ctrl := sound.ctrl
  errcnt := sound.errcnt
  status := sound.status
  len := sound.len
  settled := sound.settled
  emittable := sound.emittable
  paired := sound.paired
  armed := sound.armed

/-- A presented word keeps a sound state sound. -/
theorem runCommand_sound {w : Word} (sound : Sound s) (h : runCommand w s = .next t) : Sound t := by
  cases hdecode : decode w with
  | error e =>
    obtain ⟨-, rfl⟩ := runCommand_illegal_next hdecode h
    exact sound.reject_otherError
  | ok i => exact exec_sound sound (runCommand_of_decode_ok hdecode ▸ h)

end

/-- The state after reset is sound (R240). -/
theorem sound_resetWith (p : Params) : Sound (State.resetWith p) where
  ctrl := ctrlResetValue_mem_legalImages p.gateBit
  errcnt := Nat.two_pow_pos _
  status := .inl rfl
  len := .inl rfl
  settled := (traceSettled_iff_of_idle rfl).2 rfl
  emittable := rfl
  paired := rfl
  armed := rfl

/-- Settles O46: the reset state of any parameters is sound, those of `State.reset` included. -/
theorem resetIsSound : Obligations.ResetIsSound := ⟨sound_resetWith, sound_resetWith _⟩

/-- Settles O47: each kind of step keeps a sound state sound. -/
theorem stepKeepsSound : Obligations.StepKeepsSound := by
  intro s t sound h
  obtain ⟨-, -, rfl⟩ | ⟨w, rest, -, ran⟩ | ⟨m, rest, -, -, n, rfl⟩ := step_next_cases h
  · exact sound
  · exact runCommand_sound (sound.outside rest s.draws s.drawn) ran
  · exact (sound_resetWith s.params).outside rest _ _

end Sys2Proof.Machine
end

section
/-!
PROOF. The reference environment (20_memory.md R66): an event of it drew `Ok`, so a command all of whose events are of
it took its one good path. A control word puts the chip in step (O45), FREQ_LOAD sets FREQ0 (O44), the two together from
power-on (O52), and POT_WRITE followed by POT_READ gives the data back (O43).
-/

namespace Sys2Proof.Machine

open Sys2Proof.Claims

/-! ## Events of the environment -/

section
variable {d d' : Device}

/-- A bus-A word of the environment drew `Ok` (R66). -/
theorem deviceEvent_aWord_ok {w : Half} {o : Option Completion} (h : deviceEvent d (.aWord w o) = some d') :
    o = some .ok := by
  rcases o with _ | _ | _
  · exact nomatch (deviceEvent_hung (bytes := [])).1.symm.trans h
  · rfl
  · exact nomatch (deviceEvent_failed (bytes := [])).1.symm.trans h

/-- A bus-B write of the environment drew `Ok` (R66). -/
theorem deviceEvent_bWrite_ok {bytes : List Byte} {o : Option Completion}
    (h : deviceEvent d (.bWrite bytes o) = some d') : o = some .ok := by
  rcases o with _ | _ | _
  · exact nomatch (deviceEvent_hung (w := 0)).2.1.symm.trans h
  · rfl
  · exact nomatch (deviceEvent_failed (w := 0)).2.1.symm.trans h

/-- A first event and those after it, each of the environment. -/
theorem deviceRun_cons_eq_some {e : Event} {es : List Event} (h : deviceRun d (e :: es) = some d') :
    ∃ d1, deviceEvent d e = some d1 ∧ deviceRun d1 es = some d' :=
  Option.bind_eq_some_iff.1 h

/-- Two lists of events, each of the environment. -/
theorem deviceRun_append_eq_some {es fs : List Event} (h : deviceRun d (es ++ fs) = some d') :
    ∃ d1, deviceRun d es = some d1 ∧ deviceRun d1 fs = some d' :=
  Option.bind_eq_some_iff.1 ((deviceRun_append d es fs).symm.trans h)

end

/-! ## Control words -/

/-- The fourteen bits the chip takes of a legal image are all of it, and B28 is 1 in them (R25, R66). -/
theorem chipControl_of_mem_legalImages {g : GateBit} {n : Half} (h : n ∈ legalImages g) :
    (n.extractLsb' 0 14).toNat = n.toNat ∧ (n.extractLsb' 0 14).getLsbD 13 = true := by
  refine of_mem_legalImages
    (P := fun n => (n.extractLsb' 0 14).toNat = n.toNat ∧ (n.extractLsb' 0 14).getLsbD 13 = true) ?_ h
  cases g <;> decide

/-- The commands that send a control word (R132 to R135). -/
abbrev SendsControlWord (i : Instr) : Prop :=
  i = .ctrlSync ∨ i = .ctrlReset ∨ (∃ wf, i = .setWaveform wf ∧ wf.toNat ≤ 3) ∨ ∃ on, i = .setGate on

/-- They have an image to commit. -/
theorem SendsControlWord.exists_image {i : Instr} (h : SendsControlWord i) (s : State) :
    ∃ n, commandImage i s = some n := by
  obtain rfl | rfl | ⟨wf, rfl, known⟩ | ⟨on, rfl⟩ := h
  · exact ⟨_, rfl⟩
  · exact ⟨_, rfl⟩
  · have not_unknown : waveformOf wf ≠ none := mt waveformOf_eq_none_iff.1 (Nat.not_le.2 (Nat.lt_succ_of_le known))
    obtain ⟨k, hk⟩ := Option.ne_none_iff_exists'.1 not_unknown
    exact ⟨withWave s.ctrl k, by rw [commandImage, hk, Option.map_some]⟩
  · exact ⟨_, rfl⟩

/-- Under the environment a committed image is stored, in the block and in the chip (R66, R130). -/
theorem ctlCommit_in_environment {n : Half} {s : State} {dev dev' : Device} {es : List Event}
    (target : ddsTarget n = .control)
    (trace : (ctlCommit n s).trace = s.trace ++ es) (env : deviceRun dev es = some dev') :
    (ctlCommit n s).rspStatus = 0 ∧ (ctlCommit n s).ctrl = n ∧ dev' = { dev with control := n.extractLsb' 0 14 } := by
  have sent {o : Option Completion} (events : es = [.aWord n o]) :
      o = some .ok ∧ dev' = { dev with control := n.extractLsb' 0 14 } := by
    subst events
    obtain ⟨d1, event, rest⟩ := deviceRun_cons_eq_some env
    obtain rfl := deviceEvent_aWord_ok event
    exact ⟨rfl, Option.some.inj (rest.symm.trans (event.symm.trans (deviceEvent_control target)))⟩
  rcases ctlCommit_cases n s with ⟨-, e⟩ | ⟨-, e⟩ | ⟨-, e⟩ <;> rw [e] at trace
  · obtain ⟨-, chip⟩ := sent (List.append_cancel_left trace).symm
    rw [e]
    exact ⟨rfl, rfl, chip⟩
  · exact nomatch (sent (List.append_cancel_left trace).symm).1
  · exact nomatch (sent (List.append_cancel_left trace).symm).1

/-- After a command with a control word, on a block with a legal `CTRL`, the chip has `CTRL` and nothing else new
(R66). -/
theorem exec_control_in_environment {i : Instr} {s t : State} {dev dev' : Device} {es : List Event}
    (legal : CtrlLegal s) (hi : SendsControlWord i) (h : exec i s = .next t) (trace : t.trace = s.trace ++ es)
    (env : deviceRun dev es = some dev') :
    t.rspStatus = 0 ∧ t.ctrl ∈ legalImages s.params.gateBit ∧
      dev' = { dev with control := t.ctrl.extractLsb' 0 14 } := by
  obtain ⟨n, himage⟩ := hi.exists_image s
  have n_legal := commandImage_mem_legalImages legal himage
  obtain rfl := eq_ctlCommit_of_exec h himage
  obtain ⟨status, stored, chip⟩ := ctlCommit_in_environment (ddsTarget_of_mem_legalImages n_legal) trace env
  rw [stored]
  exact ⟨status, n_legal, chip⟩

/-- Settles O45: the chip takes all of a legal image. -/
theorem controlWordSynchronisesTheChip : Obligations.ControlWordSynchronisesTheChip := by
  intro i s t dev dev' es legal hi h trace env
  obtain ⟨status, t_legal, rfl⟩ := exec_control_in_environment legal hi h trace env
  exact ⟨status, chipControl_of_mem_legalImages t_legal⟩

/-! ## FREQ_LOAD -/

/-- The tuning word from its statements' number (R110). -/
theorem tuningWord_eq_ofNat (clockHz hz : Nat) : tuningWord clockHz hz = BitVec.ofNat 28 (tuning clockHz hz) := by
  rw [← tuningWord_toNat_eq_tuning, BitVec.ofNat_toNat, BitVec.setWidth_eq]

/-- Two completed FREQ0 words of a tuning word set FREQ0 to it (R54, R66). -/
theorem deviceRun_freqWords {tw : BitVec 28} {dev dev' : Device} {o1 o2 : Option Completion}
    (b28 : dev.control.getLsbD 13 = true) (no_half : dev.pendingHalf = false)
    (env : deviceRun dev [.aWord (lsbWord tw) o1, .aWord (msbWord tw) o2] = some dev') :
    o1 = some .ok ∧ o2 = some .ok ∧
      dev' = { dev with freq0 := tw, lsbHalf := (lsbWord tw).extractLsb' 0 14, pendingHalf := false } := by
  obtain ⟨d1, first, env1⟩ := deviceRun_cons_eq_some env
  obtain ⟨d2, second, -⟩ := deviceRun_cons_eq_some env1
  obtain rfl := deviceEvent_aWord_ok first
  obtain rfl := deviceEvent_aWord_ok second
  rw [deviceRun_freq_pair (ddsTarget_lsbWord tw) (ddsTarget_msbWord tw) b28 no_half, ← joinFreqWords,
    joinFreqWords_msbWord_lsbWord] at env
  exact ⟨rfl, rfl, (Option.some.inj env).symm⟩

/-- FREQ_LOAD to a chip with B28 = 1 and no half pending sets FREQ0 to the tuning word (R54, R66). -/
theorem exec_freqLoad_in_environment {hz : BitVec 24} {s t : State} {dev dev' : Device} {es : List Event}
    (hhz : hz.toNat ≤ 8000000) (env : deviceRun dev es = some dev') (b28 : dev.control.getLsbD 13 = true)
    (no_half : dev.pendingHalf = false) (h : exec (.freqLoad hz) s = .next t) (trace : t.trace = s.trace ++ es) :
    t.rspStatus = 0 ∧ ∃ half, dev' = { dev with
      freq0 := BitVec.ofNat 28 (tuning s.params.clockHz hz.toNat), lsbHalf := half, pendingHalf := false } := by
  obtain ⟨-, ⟨refused, -⟩ | ⟨-, l, m, rfl, rfl, sent⟩⟩ := execFreqLoad_next h
  · exact absurd (freqAdmitted_eq_false_iff.1 refused) hhz.not_gt
  rw [← tuningWord_eq_ofNat]
  obtain ⟨o1, o2, -, -, rfl⟩ | ⟨o1, -, -, rfl⟩ | ⟨-, rfl⟩ := sent
  · obtain rfl := List.append_cancel_left ((List.append_assoc _ _ _).symm.trans trace)
    obtain ⟨ok1, ok2, chip⟩ := deviceRun_freqWords b28 no_half env
    obtain rfl := Option.some.inj ok1
    obtain rfl := Option.some.inj ok2
    exact ⟨rfl, _, chip⟩
  · obtain rfl := List.append_cancel_left ((List.append_assoc _ _ _).symm.trans trace)
    exact nomatch (deviceRun_freqWords b28 no_half env).2.1
  · obtain rfl := List.append_cancel_left trace
    obtain ⟨d1, event, -⟩ := deviceRun_cons_eq_some env
    exact nomatch deviceEvent_aWord_ok event

/-- Settles O44: both words drew `Ok`, and the chip joined them. -/
theorem freqLoadSetsFreq0InReferenceEnvironment : Obligations.FreqLoadSetsFreq0InReferenceEnvironment :=
  fun _ _ _ _ _ _ hhz b28 no_half h trace env => exec_freqLoad_in_environment hhz env b28 no_half h trace

/-- FREQ_LOAD leaves `CTRL`. -/
theorem exec_freqLoad_ctrl {hz : BitVec 24} {s t : State} (h : exec (.freqLoad hz) s = .next t) : t.ctrl = s.ctrl :=
  exec_ctrl_of_no_image h rfl

/-- Settles O52: the control command sets B28 in the chip (`exec_control_in_environment`), and FREQ_LOAD then finds what
it needs (`exec_freqLoad_in_environment`). -/
theorem freqLoadFromPowerOnInReferenceEnvironment : Obligations.FreqLoadFromPowerOnInReferenceEnvironment := by
  intro i hz s t u dev dev' es legal hi hhz hcontrol hload trace env
  obtain ⟨es1, -, trace1, -, -, params, -⟩ := commandsOnlyAppendToTrace i s t hcontrol
  obtain ⟨es2, -, trace2, -⟩ := commandsOnlyAppendToTrace _ t u hload
  obtain rfl : es1 ++ es2 = es := by
    rw [trace2, trace1, List.append_assoc] at trace
    exact List.append_cancel_left trace
  obtain ⟨dev1, env1, env2⟩ := deviceRun_append_eq_some env
  obtain ⟨status1, t_legal, rfl⟩ := exec_control_in_environment legal hi hcontrol trace1 env1
  obtain ⟨control, b28⟩ := chipControl_of_mem_legalImages t_legal
  obtain ⟨status2, half, rfl⟩ := exec_freqLoad_in_environment hhz env2 b28 rfl hload trace2
  rw [exec_freqLoad_ctrl hload, ← params]
  exact ⟨status1, status2, control, rfl, rfl⟩

/-! ## The wipers -/

/-- A written wiper reads back (R66). -/
theorem deviceWiper_of_deviceSetWiper {d d' : Device} {r : PotRegister} {v : BitVec 9}
    (h : deviceSetWiper d r v = some d') : deviceWiper d' r = some v := by
  cases r with
  | tcon | statusRegister => exact nomatch h
  | _ => exact Option.some.inj h ▸ rfl

/-- The nine bits the chip takes of two packed bytes are those of the data (R57, R66). -/
theorem chipData_potBytes (a : BitVec 4) (c : BitVec 2) (x : BitVec 16) :
    ((potByte1 a c x).extractLsb' 0 1).setWidth 9 <<< 8 ||| (potByte2 x).setWidth 9 = x.setWidth 9 := by
  have bit8 : ((potByte1 a c x).extractLsb' 0 1).toNat = x.toNat / 256 % 2 := by
    rw [BitVec.extractLsb'_toNat, potByte1_toNat, Nat.shiftRight_zero]
    omega
  have byte : x.toNat % 256 < 2 ^ 8 := Nat.mod_lt _ (by decide)
  apply BitVec.eq_of_toNat_eq
  rw [BitVec.toNat_or, BitVec.toNat_shiftLeft, BitVec.toNat_setWidth, BitVec.toNat_setWidth, BitVec.toNat_setWidth,
    bit8, potByte2_toNat, Nat.shiftLeft_eq, Nat.mod_eq_of_lt (by omega : x.toNat / 256 % 2 < 2 ^ 9),
    Nat.mod_eq_of_lt (by omega : x.toNat / 256 % 2 * 2 ^ 8 < 2 ^ 9),
    Nat.mod_eq_of_lt (by omega : x.toNat % 256 < 2 ^ 9), Nat.mul_comm, or_eq_add 8 _ byte]
  omega

/-- The packed bytes of a triple reach the chip as its command byte and nine bits of its data (R66, R91). -/
theorem deviceEvent_potPack (dev : Device) (a : BitVec 4) (c : BitVec 2) (x : BitVec 16) :
    deviceEvent dev (.bWrite (potPack a c x) (some .ok)) = devicePotCommand dev (potByte1 a c x) (x.setWidth 9) := by
  by_cases zero : x = 0
  · subst zero
    rfl
  · rw [potPack_of_ne_zero zero, deviceEvent, chipData_potBytes]

section
variable {a : BitVec 4} {d : BitVec 16} {dev dev' : Device}

/-- A WriteData of the environment sets the wiper at its address (R66). -/
theorem deviceEvent_writeData (h : deviceEvent dev (.bWrite (potPack a 0b00 d) (some .ok)) = some dev') :
    ∃ r, potRegisterOf a = some r ∧ deviceWiper dev' r = some (d.setWidth 9) := by
  rw [deviceEvent_potPack, devicePotCommand, byteAddr_potByte1, byteCommand_potByte1] at h
  cases hr : potRegisterOf a with
  | none => exact nomatch hr ▸ h
  | some r =>
    rw [hr] at h
    exact ⟨r, rfl, deviceWiper_of_deviceSetWiper h⟩

/-- A ReadData byte of the environment selects the register at its address and leaves the wipers (R66). -/
theorem deviceEvent_readData {r : PotRegister} (hr : potRegisterOf a = some r)
    (h : deviceEvent dev (.bWrite (potPack a (potCommandCode .readData) 0) (some .ok)) = some dev') :
    dev' = { dev with readSelect := some r } := by
  rw [deviceEvent_potPack, devicePotCommand, byteAddr_potByte1, byteCommand_potByte1, hr] at h
  obtain ⟨v, -, rfl⟩ := Option.map_eq_some_iff.1 h
  rfl

/-- The selection leaves the wipers. -/
theorem deviceWiper_readSelect (dev : Device) (selection : Option PotRegister) (r : PotRegister) :
    deviceWiper { dev with readSelect := selection } r = deviceWiper dev r := by
  cases r <;> rfl

/-- A read of the environment returns the nine bits of the selected wiper (R66). -/
theorem deviceEvent_bRead_ok {o : Option ReadCompletion} {v : BitVec 9}
    (selected : dev.readSelect.bind (deviceWiper dev) = some v) (h : deviceEvent dev (.bRead o) = some dev') :
    o = some (.ok ((v.extractLsb' 8 1).setWidth 8) (v.extractLsb' 0 8)) := by
  rcases o with _ | ⟨b0, b1⟩ | _
  · exact nomatch h
  · simp only [deviceEvent, selected] at h
    split at h
    case isTrue bytes => rw [bytes.1, bytes.2]
    case isFalse => exact nomatch h
  · exact nomatch h

end

/-- The bytes of nine bits that hold data up to 256 read as the data (R61, R187). -/
theorem readResult_wiperBytes {d : BitVec 16} (hd : d.toNat ≤ 256) :
    readResult (((d.setWidth 9).extractLsb' 8 1).setWidth 8) ((d.setWidth 9).extractLsb' 0 8) = d := by
  apply BitVec.eq_of_toNat_eq
  rw [readResult_toNat, BitVec.toNat_setWidth, BitVec.extractLsb'_toNat, BitVec.extractLsb'_toNat,
    BitVec.toNat_setWidth, Nat.shiftRight_zero, Nat.shiftRight_eq_div_pow]
  omega

section
variable {a : BitVec 4} {d : BitVec 16} {s t : State} {dev dev' : Device} {es : List Event}

/-- A valid POT_WRITE that does not hang makes its one write (R185). -/
theorem execPotWrite_trace {c : BitVec 2} (ha : a.toNat ≤ 5) (hd : d.toNat ≤ 256)
    (h : exec (.potWrite a c d) s = .next t) (idle : t.run = .idle) :
    ∃ o, t.trace = s.trace ++ [.bWrite (potPack a c d) o] := by
  obtain ⟨-, ⟨invalid, -⟩ | ⟨-, ⟨o, -, rfl⟩ | ⟨-, rfl⟩⟩⟩ := execPotWrite_next h
  · exact nomatch invalid.symm.trans (potValid_iff.2 ⟨ha, hd⟩)
  · exact ⟨some o, by cases o <;> rfl⟩
  · exact nomatch idle

/-- Under the environment POT_READ of a wiper answers the bytes of its nine bits (R66, R186). -/
theorem execPotRead_in_environment {r : PotRegister} {v : BitVec 9} (hr : potRegisterOf a = some r)
    (wiper : deviceWiper dev r = some v) (h : exec (.potRead a) s = .next t) (trace : t.trace = s.trace ++ es)
    (env : deviceRun dev es = some dev') :
    t.run = .idle ∧ t.rspStatus = 0 ∧ t.rspR0 = readResult ((v.extractLsb' 8 1).setWidth 8) (v.extractLsb' 0 8) ∧
      t.rspR1 = 0 ∧ t.rspLen = 1 := by
  have armed {o : Option Completion} {fs : List Event}
      (events : es = .bWrite (potPack a (potCommandCode .readData) 0) o :: fs) :
      o = some .ok ∧ ∃ d1, d1.readSelect.bind (deviceWiper d1) = some v ∧ deviceRun d1 fs = some dev' := by
    subst events
    obtain ⟨d1, event, rest⟩ := deviceRun_cons_eq_some env
    obtain rfl := deviceEvent_bWrite_ok event
    obtain rfl := deviceEvent_readData hr event
    exact ⟨rfl, { dev with readSelect := some r }, (deviceWiper_readSelect dev (some r) r).trans wiper, rest⟩
  have read {o : Option ReadCompletion}
      (events : es = [.bWrite (potPack a (potCommandCode .readData) 0) (some .ok), .bRead o]) :
      o = some (.ok ((v.extractLsb' 8 1).setWidth 8) (v.extractLsb' 0 8)) := by
    obtain ⟨-, d1, selected, env1⟩ := armed events
    obtain ⟨d2, event, -⟩ := deviceRun_cons_eq_some env1
    exact deviceEvent_bRead_ok selected event
  obtain ⟨hrun, ⟨unknown, -⟩ | ⟨-, arming, rfl, sent⟩⟩ := execPotRead_next h
  · rw [potAddrKnown, hr] at unknown
    exact nomatch unknown
  obtain ⟨-, rfl⟩ | ⟨-, rfl⟩ | ⟨-, ⟨-, rfl⟩ | ⟨-, rfl⟩ | ⟨-, b0, b1, -, -, rfl⟩⟩ := sent
  · exact nomatch (armed (List.append_cancel_left trace).symm).1
  · exact nomatch (armed (List.append_cancel_left trace).symm).1
  · exact nomatch read (List.append_cancel_left ((List.append_assoc _ _ _).symm.trans trace)).symm
  · exact nomatch read (List.append_cancel_left ((List.append_assoc _ _ _).symm.trans trace)).symm
  · obtain ⟨rfl, rfl⟩ := ReadCompletion.ok.inj
      (Option.some.inj (read (List.append_cancel_left ((List.append_assoc _ _ _).symm.trans trace)).symm))
    exact ⟨hrun, rfl, rfl, rfl, rfl⟩

end

/-- Settles O43: the write leaves nine bits of the data in the wiper, and the read's two bytes are those bits. -/
theorem potRoundTripInReferenceEnvironment : Obligations.PotRoundTripInReferenceEnvironment := by
  intro a d s s1 s2 dev dev' es ha hd hwrite hread trace env
  obtain ⟨o, trace1⟩ := execPotWrite_trace (by omega) hd hwrite (run_eq_idle_of_exec_next hread)
  obtain ⟨es2, -, trace2, -⟩ := commandsOnlyAppendToTrace _ s1 s2 hread
  obtain rfl : .bWrite (potPack a 0b00 d) o :: es2 = es := by
    rw [trace2, trace1, List.append_assoc] at trace
    exact List.append_cancel_left trace
  obtain ⟨dev1, event, env2⟩ := deviceRun_cons_eq_some env
  obtain rfl := deviceEvent_bWrite_ok event
  obtain ⟨r, hr, wiper⟩ := deviceEvent_writeData event
  have ended := execPotRead_in_environment hr wiper hread trace2 env2
  rwa [readResult_wiperBytes hd] at ended

end Sys2Proof.Machine
end
